-- ==== Sys2Proof/Word.lean ====
section
/-! DEFINITION. The word types of the engine (spec/00_scope.md section 6): byte, nibble and the 32-bit command word. -/

namespace Sys2Proof

/-- An unsigned 8-bit value: a payload byte, a TransportByte, a character code. -/
abbrev Byte := BitVec 8

/-- An unsigned 4-bit value, half of a payload byte (00_scope glossary). -/
abbrev Nibble := BitVec 4

/-- A 32-bit word: the host command word (30_encoding R52), and a table word of any format with zeros above it. -/
abbrev Word := BitVec 32

end Sys2Proof
end

