-- ==== Sys2Proof/Config.lean ====
section
/-! DEFINITION. The parameters of 00_scope R6: the fixed ones as numbers, the open ones as constants with no body,
the record of straps an engine carries, and the free values of the model. -/

namespace Sys2Proof

/-- The sender an engine has, fixed for its life (00_scope R6, 41 R67). -/
inductive Transport where
  | raw
  | block
  deriving DecidableEq, Repr, Inhabited

/-- A place a control bit of a TransportByte can have: 4, 5, 6 or 7 (30 R44). -/
inductive CtlPos where
  | p4
  | p5
  | p6
  | p7
  deriving DecidableEq, Repr, Inhabited

/-- The bit number of a place. -/
def CtlPos.num : CtlPos → Nat
  | .p4 => 4
  | .p5 => 5
  | .p6 => 6
  | .p7 => 7

/-- `BIT_BL`, `BIT_EN`, `BIT_RW`, `BIT_RS` (00_scope R6). -/
structure ControlBits where
  bl : CtlPos
  en : CtlPos
  rw : CtlPos
  rs : CtlPos
  deriving DecidableEq, Repr

/-- The four places are distinct (30 R44). -/
def ControlBits.distinct (c : ControlBits) : Bool :=
  c.bl != c.en && c.bl != c.rw && c.bl != c.rs && c.en != c.rw && c.en != c.rs && c.rw != c.rs

/-- The default places 4, 5, 6, 7 (00_scope R6, 30 R44). -/
def ControlBits.default : ControlBits := ⟨.p4, .p5, .p6, .p7⟩

/-- The parameters that 00_scope R6 leaves open. They are fixed before reset is released (70 R125). [log 1] -/
structure Straps where
  transport  : Transport
  tDefaultUs : Nat
  bits       : ControlBits
  deriving DecidableEq, Repr

namespace Config

/-- `STAGE_CAP`, in TransportBytes (00_scope R6). -/
abbrev stageCap : Nat := 64

/-- `CHUNK_MAX`, in TransportBytes (00_scope R6). -/
abbrev chunkMax : Nat := 32

/-- `INIT_STEPS` (00_scope R6). -/
abbrev initSteps : Nat := 9

/-- `TEXT_MAX`, in bytes (00_scope R6). -/
abbrev textMax : Nat := 255

/-- `WIDTH_FIELD_MAX` (00_scope R6). -/
abbrev widthFieldMax : Nat := 127

/-- `RW_WRITE`: the read/write bit that means write is 0 (00_scope R6, 30 R45). [log 2] -/
def rwWrite : Bool := false

/-- `TRANSPORT` of the engine that `State.reset` describes: open, so it has no body. [log 1] -/
opaque transport : Transport

/-- `T_DEFAULT_US` of the engine that `State.reset` describes: open, so it has no body. [log 1] -/
opaque tDefaultUs : Nat

/-- The straps of the engine that `State.reset` describes: the control bits at their default places. [log 1] -/
def straps : Straps := ⟨transport, tDefaultUs, ControlBits.default⟩

/-- The n-th free bool answer of the channel (20 R27). [log 3] -/
opaque freeAnswer : Nat → Bool

/-- The n-th free error code of the channel (20 R27). [log 3, 4] -/
opaque freeCode : Nat → Nat

/-- Which of the three wake-up attempts a wake-up frame outside init stands for: not stated. [log 13] -/
opaque freeWakeAttempt : Nat → Fin 3

end Config

end Sys2Proof
end

