-- ==== Sys2Proof/Syntax.lean ====
section
/-! DEFINITION. The instructions: one constructor per row of spec/opcode_table.json, and the table's formats. -/

namespace Sys2Proof

/-- The "format" column of spec/opcode_table.json. -/
inductive Format where
  /-- a 32-bit host command word (30 R52) -/
  | host32
  /-- a TransportByte (30 R44) -/
  | tbyte8
  /-- the nibble of a startup frame (30 R47, R48) -/
  | lcd4
  /-- the command byte of a command frame (30 R48) -/
  | lcd8
  /-- the character code of a data frame (30 R51) -/
  | lcd8data
  deriving DecidableEq, Repr

/-- One constructor per row of the table; the fields are the row's fields as 30 R53 and R54 read them. -/
inductive Instr where
  /-- OPEN (43 R96) -/
  | openDev (path : BitVec 8) (address : BitVec 7)
  /-- INIT (42 R81); width and height are signed -/
  | init (backlightOn : Bool) (height width : BitVec 8)
  /-- GOTO (42 R87); x and y are signed -/
  | goto (y x : BitVec 8)
  /-- PRINT (42 R88); len is unsigned, x and y are signed -/
  | print (len y x : BitVec 8)
  /-- CLEAR_ALL (42 R89): line is signed and negative -/
  | clearAll (line : BitVec 8)
  /-- CLEAR_ROW (42 R90): line is signed and not negative -/
  | clearRow (line : BitVec 8)
  /-- BACKLIGHT (42 R91) -/
  | backlight (on : Bool)
  /-- CONTROL (42 R92) -/
  | control (backlight displayOn cursorOn blink : Bool)
  /-- CLOSE (43 R98) -/
  | close
  /-- TBYTE (40 R61, 30 R44): the read/write bit is always write and has no field -/
  | tbyte (rs en bl : Bool) (nibble : BitVec 4)
  /-- LCD_WAKE (42 R82 steps 1 to 3) -/
  | lcdWake
  /-- LCD_MODE4 (42 R82 step 4) -/
  | lcdMode4
  /-- LCD_FUNCTION_SET (42 R82 step 5) -/
  | lcdFunctionSet
  /-- LCD_CLEAR_DISPLAY (42 R89, R82 step 7) -/
  | lcdClearDisplay
  /-- LCD_ENTRY_MODE (42 R82 step 8) -/
  | lcdEntryMode
  /-- LCD_DISPLAY_CONTROL (30 R50, 42 R92, R82 steps 6 and 9) -/
  | lcdDisplayControl (display cursor blink : Bool)
  /-- LCD_BACKLIGHT_CARRIER (42 R91) -/
  | lcdBacklightCarrier
  /-- LCD_SET_ADDRESS (42 R95, 30 R49) -/
  | lcdSetAddress (offset : BitVec 7)
  /-- LCD_DATA (30 R51) -/
  | lcdData (code : BitVec 8)
  deriving DecidableEq, Repr

/-- The format an instruction's row has. -/
def Instr.format : Instr → Format
  | .openDev _ _ => .host32
  | .init _ _ _ => .host32
  | .goto _ _ => .host32
  | .print _ _ _ => .host32
  | .clearAll _ => .host32
  | .clearRow _ => .host32
  | .backlight _ => .host32
  | .control _ _ _ _ => .host32
  | .close => .host32
  | .tbyte _ _ _ _ => .tbyte8
  | .lcdWake => .lcd4
  | .lcdMode4 => .lcd4
  | .lcdFunctionSet => .lcd8
  | .lcdClearDisplay => .lcd8
  | .lcdEntryMode => .lcd8
  | .lcdDisplayControl _ _ _ => .lcd8
  | .lcdBacklightCarrier => .lcd8
  | .lcdSetAddress _ => .lcd8
  | .lcdData _ => .lcd8data

end Sys2Proof
end

