-- ==== Sys2Proof/WellFormed.lean ====
section
/-! DEFINITION. What an instruction must meet beyond the widths of its fields (30 R53: the sign bit of `line`
tells CLEAR_ALL and CLEAR_ROW apart). -/

namespace Sys2Proof

/-- The well-formed instructions. The sign of `line` is the one thing the fields' widths do not already say. -/
def Instr.wf : Instr → Bool
  | .openDev _ _ => true
  | .init _ _ _ => true
  | .goto _ _ => true
  | .print _ _ _ => true
  | .clearAll line => line.msb
  | .clearRow line => !line.msb
  | .backlight _ => true
  | .control _ _ _ _ => true
  | .close => true
  | .tbyte _ _ _ _ => true
  | .lcdWake => true
  | .lcdMode4 => true
  | .lcdFunctionSet => true
  | .lcdClearDisplay => true
  | .lcdEntryMode => true
  | .lcdDisplayControl _ _ _ => true
  | .lcdBacklightCarrier => true
  | .lcdSetAddress _ => true
  | .lcdData _ => true

end Sys2Proof
end

