-- ==== Sys2Proof/Decode.lean ====
section
/-! DEFINITION. The decoder of each format of spec/opcode_table.json, total on every word and rejecting by name, and
after it the encoder, written from the same tables (30 R44, R48, R52, R53). -/

namespace Sys2Proof

/-- Why a word is no instruction of its format. -/
inductive DecodeError where
  /-- a host word whose `OP` is 0x8 to 0xF (30 R56) -/
  | reservedOp
  /-- a host word with a must-be-zero bit set (30 R56) -/
  | mustBeZero
  /-- a wire word with a bit set above its format's width -/
  | tooWide
  /-- a TransportByte whose read/write bit says read (30 R57) -/
  | readBit
  /-- a startup nibble that init never sends (30 R48) -/
  | notAStartupNibble
  /-- a command byte that the engine never sends (30 R48) -/
  | notACommandByte
  deriving DecidableEq, Repr

/-- What a decoder answers. -/
inductive Decoded where
  | ok (i : Instr)
  | bad (e : DecodeError)
  deriving DecidableEq, Repr

/-- The instruction, if there is one. -/
def Decoded.instr? : Decoded → Option Instr
  | .ok i => some i
  | .bad _ => none

namespace Decode

/-- The field of `n` bits from bit `lo` up (00_scope section 6: `v[lo+n-1:lo]`). -/
def field (lo n : Nat) (w : Word) : BitVec n := w.extractLsb' lo n

/-- `OP`, bits 31..28 of a host word (30 R52). -/
def op (w : Word) : BitVec 4 := field 28 4 w

/-- The instruction if its row's must-be-zero bits are 0. -/
def whenZero (zeros : Bool) (i : Instr) : Decoded := if zeros then .ok i else .bad .mustBeZero

/-- 30 R53, `OP` 0x0: bits 27..16 and bit 7 are 0. -/
def openRow (w : Word) : Decoded :=
  whenZero (field 16 12 w == 0#12 && field 7 1 w == 0#1) (.openDev (field 8 8 w) (field 0 7 w))

/-- 30 R53, `OP` 0x1: bits 27..17 are 0. -/
def initRow (w : Word) : Decoded :=
  whenZero (field 17 11 w == 0#11) (.init (w.getLsbD 16) (field 8 8 w) (field 0 8 w))

/-- 30 R53, `OP` 0x2: bits 27..16 are 0. -/
def gotoRow (w : Word) : Decoded :=
  whenZero (field 16 12 w == 0#12) (.goto (field 8 8 w) (field 0 8 w))

/-- 30 R53, `OP` 0x3: bits 27..24 are 0. -/
def printRow (w : Word) : Decoded :=
  whenZero (field 24 4 w == 0#4) (.print (field 16 8 w) (field 8 8 w) (field 0 8 w))

/-- 30 R53, `OP` 0x4: bits 27..8 are 0; the sign bit of `line` tells the two rows apart. -/
def clearRow (w : Word) : Decoded :=
  whenZero (field 8 20 w == 0#20) (if w.getLsbD 7 then .clearAll (field 0 8 w) else .clearRow (field 0 8 w))

/-- 30 R53, `OP` 0x5: bits 27..1 are 0. -/
def backlightRow (w : Word) : Decoded :=
  whenZero (field 1 27 w == 0#27) (.backlight (w.getLsbD 0))

/-- 30 R53, `OP` 0x6: bits 27..4 are 0. -/
def controlRow (w : Word) : Decoded :=
  whenZero (field 4 24 w == 0#24) (.control (w.getLsbD 3) (w.getLsbD 2) (w.getLsbD 1) (w.getLsbD 0))

/-- 30 R53, `OP` 0x7: bits 27..0 are 0. -/
def closeRow (w : Word) : Decoded := whenZero (field 0 28 w == 0#28) .close

/-- A host command word (30 R52, R53, R56). -/
def host (w : Word) : Decoded :=
  if op w = 0x0#4 then openRow w
  else if op w = 0x1#4 then initRow w
  else if op w = 0x2#4 then gotoRow w
  else if op w = 0x3#4 then printRow w
  else if op w = 0x4#4 then clearRow w
  else if op w = 0x5#4 then backlightRow w
  else if op w = 0x6#4 then controlRow w
  else if op w = 0x7#4 then closeRow w
  else .bad .reservedOp

/-- A TransportByte at the default places (30 R44, row TBYTE). [log 17] -/
def tbyte (w : Word) : Decoded :=
  if w.getLsbD 6 then .bad .readBit
  else .ok (.tbyte (w.getLsbD 7) (w.getLsbD 5) (w.getLsbD 4) (field 0 4 w))

/-- A startup nibble (30 R48, rows LCD_WAKE and LCD_MODE4). -/
def startup (w : Word) : Decoded :=
  if field 0 4 w = 0x3#4 then .ok .lcdWake
  else if field 0 4 w = 0x2#4 then .ok .lcdMode4
  else .bad .notAStartupNibble

/-- A command byte (30 R48, the LCD8 rows). -/
def commandByte (w : Word) : Decoded :=
  if field 7 1 w = 1#1 then .ok (.lcdSetAddress (field 0 7 w))
  else if field 3 5 w = 0x01#5 then .ok (.lcdDisplayControl (w.getLsbD 2) (w.getLsbD 1) (w.getLsbD 0))
  else if field 0 8 w = 0x28#8 then .ok .lcdFunctionSet
  else if field 0 8 w = 0x01#8 then .ok .lcdClearDisplay
  else if field 0 8 w = 0x06#8 then .ok .lcdEntryMode
  else if field 0 8 w = 0x00#8 then .ok .lcdBacklightCarrier
  else .bad .notACommandByte

end Decode

/-- The instruction that a word of a format is. A wire word stands in the low bits of the word, with zeros above it. -/
def decode (f : Format) (w : Word) : Decoded :=
  match f with
  | .host32 => Decode.host w
  | .tbyte8 => if Decode.field 8 24 w = 0#24 then Decode.tbyte w else .bad .tooWide
  | .lcd4 => if Decode.field 4 28 w = 0#28 then Decode.startup w else .bad .tooWide
  | .lcd8 => if Decode.field 8 24 w = 0#24 then Decode.commandByte w else .bad .tooWide
  | .lcd8data => if Decode.field 8 24 w = 0#24 then .ok (.lcdData (Decode.field 0 8 w)) else .bad .tooWide

/-- A host command word: `OP` in bits 31..28, the operands below it (30 R52). -/
def hostWord (op operands : Nat) : Word := BitVec.ofNat 32 (op * 2 ^ 28 + operands)

/-- A wire word: its bits are the low bits of the word. -/
def wireWord (bits : Nat) : Word := BitVec.ofNat 32 bits

/-- The word of an instruction, each field at the place 30 R53 (the "encoding" column, for a wire row) gives it. -/
def encode : Instr → Word
  | .openDev path address => hostWord 0x0 (path.toNat * 2 ^ 8 + address.toNat)
  | .init on height width => hostWord 0x1 (on.toNat * 2 ^ 16 + height.toNat * 2 ^ 8 + width.toNat)
  | .goto y x => hostWord 0x2 (y.toNat * 2 ^ 8 + x.toNat)
  | .print len y x => hostWord 0x3 (len.toNat * 2 ^ 16 + y.toNat * 2 ^ 8 + x.toNat)
  | .clearAll line => hostWord 0x4 line.toNat
  | .clearRow line => hostWord 0x4 line.toNat
  | .backlight on => hostWord 0x5 on.toNat
  | .control backlight displayOn cursorOn blink =>
    hostWord 0x6 (backlight.toNat * 2 ^ 3 + displayOn.toNat * 2 ^ 2 + cursorOn.toNat * 2 ^ 1 + blink.toNat)
  | .close => hostWord 0x7 0
  | .tbyte rs en bl nibble => wireWord (rs.toNat * 2 ^ 7 + en.toNat * 2 ^ 5 + bl.toNat * 2 ^ 4 + nibble.toNat)
  | .lcdWake => wireWord 0x3
  | .lcdMode4 => wireWord 0x2
  | .lcdFunctionSet => wireWord 0x28
  | .lcdClearDisplay => wireWord 0x01
  | .lcdEntryMode => wireWord 0x06
  | .lcdDisplayControl display cursor blink =>
    wireWord (0x08 + display.toNat * 2 ^ 2 + cursor.toNat * 2 ^ 1 + blink.toNat)
  | .lcdBacklightCarrier => wireWord 0x00
  | .lcdSetAddress offset => wireWord (0x80 + offset.toNat)
  | .lcdData code => wireWord code.toNat

/-- The formats that a table word of `nbits` bits can have, the most specific rows first. [log 16] -/
def tableFormats (nbits : Nat) : List Format :=
  if nbits = 32 then [.host32]
  else if nbits = 8 then [.lcd4, .lcd8, .tbyte8, .lcd8data]
  else if nbits = 4 then [.lcd4]
  else []

/-- The first format of a list in which a word is an instruction. -/
def firstFormat (w : Word) : List Format → Option Format
  | [] => none
  | f :: fs => match decode f w with
    | .ok _ => some f
    | .bad _ => firstFormat w fs

/-- The format in which a table word of `nbits` bits is read. [log 16] -/
def tableFormat (nbits w : Nat) : Option Format :=
  if w < 2 ^ nbits then firstFormat (BitVec.ofNat 32 w) (tableFormats nbits) else none

/-- The instruction the decoder reads from a word numbered as spec/opcode_table.json numbers it. Every format
has one word, so there are no later words and no byte order to undo (20 R32). -/
def decodeTableWord (nbits w : Nat) : Option Instr :=
  match tableFormat nbits w with
  | none => none
  | some f => (decode f (BitVec.ofNat 32 w)).instr?

end Sys2Proof
end

