-- ==== Sys2Proof/Machine/State.lean ====
section
/-! DEFINITION. The state (10_state R9), the named faults and refusals, and the state after reset (10_state R24). -/

namespace Sys2Proof.Machine

/-- `S.session` (10_state R10). -/
inductive Session where
  | closed
  | opened
  deriving DecidableEq, Repr

/-- `S.phase` (10_state R11). -/
inductive Phase where
  | uninitialized
  | ready
  deriving DecidableEq, Repr

/-- The error kinds (60 R102). -/
inductive Err where
  | channelOpen
  | addressBind
  | transportWrite
  | initSequenceIncomplete
  deriving DecidableEq, Repr

/-- The refusal reasons (60 R108). -/
inductive Reason where
  | illegalCommand
  | noSession
  | sessionBusy
  | notReady
  | alreadyInitialized
  | badGeometry
  | badOperand
  | emptyPayload
  | addressOverflow
  | stagingOverflow
  deriving DecidableEq, Repr

/-- `S.resp`: its three fields (10_state R17). -/
structure Resp where
  result : BitVec 2
  err    : BitVec 3
  reason : BitVec 4
  deriving DecidableEq, Repr

/-- The mode of a send (41 R65). -/
inductive Mode where
  | cmd
  | data
  | startup
  deriving DecidableEq, Repr

/-- The operation the sequencer runs (10_state R16). -/
inductive Op where
  | openDev
  | init
  | goto
  | print
  | clearAll
  | clearRow
  | backlight
  | control
  | close
  deriving DecidableEq, Repr

/-- Which nibble of the payload byte is being sent (10_state R16). -/
inductive Nib where
  | hi
  | lo
  deriving DecidableEq, Repr

/-- `S.seq`: idle, or `(op, step, byte, nib, en)` (10_state R16). -/
inductive Seq where
  | idle
  | running (op : Op) (step byte : Nat) (nib : Nib) (en : Bool)
  deriving DecidableEq, Repr

/-- An event of the trace (00_scope R8, 20 R26, 60 R117). -/
inductive Event where
  | chanOpen (path : BitVec 8)
  | bind (address : BitVec 7)
  | write (b : Byte)
  | blockWrite (bs : List Byte)
  | release
  | delay (us : Nat)
  deriving DecidableEq, Repr

/-- A buffer of bytes in canonical form: addresses strictly rising. An unlisted address has no value. [log 6] -/
structure Memory where
  cells : List Host.Cell
  deriving DecidableEq, Repr

/-- What stands in the machine's input queue. [log 9, 10, 11] -/
inductive Input where
  /-- the host writes one byte of TEXT (10_state R21) -/
  | text (i : Nat) (b : Byte)
  /-- a word to run: the host issues a command word (30 R52), or a wire word is put in -/
  | word (f : Format) (w : Word)
  /-- reset strikes (70 R122) -/
  | resetPulse
  deriving DecidableEq, Repr

/-- The state: the fields of 10_state R9, then the model's own. -/
structure State where
  session     : Session
  phase       : Phase
  path        : BitVec 8
  addr        : BitVec 7
  width       : BitVec 7
  height      : BitVec 3
  bl          : Bool
  disp        : Bool
  cur         : Bool
  blink       : Bool
  cmd         : Word
  seq         : Seq
  resp        : Resp
  fault       : Bool
  lineLen     : BitVec 7
  line        : Memory
  stageLen    : BitVec 7
  stage       : Memory
  text        : Memory
  straps      : Straps
  trace       : List Event
  boolAnswers : List Bool
  codeAnswers : List Nat
  freeIdx     : Nat
  inbox       : List Input
  deriving DecidableEq, Repr

/-- Why the machine stops. -/
inductive Fault where
  /-- PRINT reads a byte of TEXT that nothing has written since reset (10_state R24: reading an unspecified
  field is a fault of the model). Raised by `execPrint`. Safe: the model stops where the engine would go on. -/
  | textUnspecified
  /-- The host writes TEXT at an address it does not have (10_state R21: `TEXT[0..254]`). Raised by
  `hostWriteText`. Safe: the model stops. -/
  | textAddress
  deriving DecidableEq, Repr

/-- Why the machine gives no meaning. -/
inductive Refusal where
  /-- An arm of `exec` with no meaning yet. Raised by no arm of this model. Safe: the model stops. -/
  | notModelled (mnemonic : String)
  /-- A wire row is to run while no session is open: the engine writes the channel only while a session is open
  (20 R26). Raised by the meanings of Machine/Wire.lean. Safe: the model stops. -/
  | wireNoSession
  /-- A wire word that is no row of its format, so that the engine never emits it (30 R48, R57). Raised by
  `fetch`. Safe: the model stops. -/
  | notAWireWord (e : DecodeError)
  deriving DecidableEq, Repr

/-- An engine with given straps right after reset: 10_state R24. A field that R24 leaves unspecified holds zero
[log 5], and a buffer lists nothing [log 6]. -/
def State.resetWith (straps : Straps) : State where
  session := .closed
  phase := .uninitialized
  path := 0
  addr := 0
  width := 0
  height := 0
  bl := false
  disp := false
  cur := false
  blink := false
  cmd := 0
  seq := .idle
  resp := ⟨0, 0, 0⟩
  fault := false
  lineLen := 0
  line := ⟨[]⟩
  stageLen := 0
  stage := ⟨[]⟩
  text := ⟨[]⟩
  straps := straps
  trace := []
  boolAnswers := []
  codeAnswers := []
  freeIdx := 0
  inbox := []

/-- The machine right after reset (10_state R24), with the straps of `Config.straps`. [log 1] -/
def State.reset : State := State.resetWith Config.straps

end Sys2Proof.Machine
end

