-- ==== Sys2Proof/Machine/Flags.lean ====
section
/-! DEFINITION. The status register and the flags: codes of the response (60 R102, R108; 30 R55), the DisplayState
flags (10_state R14) and the movement of the sequencer position (10_state R16). -/

namespace Sys2Proof.Machine

/-- The code of an error kind (60 R102). -/
def Err.code : Err → BitVec 3
  | .channelOpen => 1
  | .addressBind => 2
  | .transportWrite => 3
  | .initSequenceIncomplete => 4

/-- The code of a refusal reason (60 R108). -/
def Reason.code : Reason → BitVec 4
  | .illegalCommand => 1
  | .noSession => 2
  | .sessionBusy => 3
  | .notReady => 4
  | .alreadyInitialized => 5
  | .badGeometry => 6
  | .badOperand => 7
  | .emptyPayload => 8
  | .addressOverflow => 9
  | .stagingOverflow => 10

/-- The response of a command that succeeded (10_state R17). -/
def Resp.success : Resp := ⟨1, 0, 0⟩

/-- The response of a command that failed (60 R111). -/
def Resp.failure (e : Err) : Resp := ⟨2, e.code, 0⟩

/-- The response of a command that was refused (60 R107). -/
def Resp.refused (r : Reason) : Resp := ⟨3, 0, r.code⟩

/-- The 9-bit value `Q` the host reads (30 R55): reason in bits 8..5, err in bits 4..2, result in bits 1..0. -/
def Resp.word (q : Resp) : BitVec 9 := q.reason ++ q.err ++ q.result

/-- Write the four DisplayState flags (10_state R14). -/
def setDisplay (bl disp cur blink : Bool) (s : State) : State :=
  { s with bl := bl, disp := disp, cur := cur, blink := blink }

/-- How many sends an operation makes (10_state R16). -/
def Op.sends : Op → Nat
  | .openDev => 0
  | .init => 9
  | .goto => 1
  | .print => 2
  | .clearAll => 1
  | .clearRow => 2
  | .backlight => 1
  | .control => 1
  | .close => 1

/-- The position of a byte of the frame that is being sent: only `byte`, `nib` and `en` move (10_state R16). -/
def Seq.place (byte : Nat) (nib : Nib) (en : Bool) : Seq → Seq
  | .idle => .idle
  | .running op step _ _ _ => .running op step byte nib en

/-- After a frame's delay: the next send of the operation, or idle after its last (10_state R16). -/
def Seq.nextSend : Seq → Seq
  | .idle => .idle
  | .running op step _ _ _ => if step < op.sends then .running op (step + 1) 0 .hi true else .idle

/-- The position at the start of an operation's first send (10_state R16). -/
def Seq.start (op : Op) : Seq := .running op 1 0 .hi true

end Sys2Proof.Machine
end

