-- ==== Sys2Proof/Machine/Operands.lean ====
section
/-! DEFINITION. How operands are read (30 R54) and the values computed from them: the row base and the target address
(42 R85, R86), the row that clear clears (42 R90), the length print keeps (42 R88), the display-control byte (30 R50). -/

namespace Sys2Proof.Machine

/-- `sext_8` (30 R54). -/
def sext8 (v : BitVec 8) : Int := v.toInt

/-- `zext_8` (30 R54). -/
def zext8 (v : BitVec 8) : Nat := v.toNat

/-- `width` >= 1 and `height` in 1, 2, 4 (42 R80 check 6). -/
def geometryLegal (height width : BitVec 8) : Bool :=
  decide (1 ≤ sext8 width) && (sext8 height == 1 || sext8 height == 2 || sext8 height == 4)

/-- `base(y)` for a display `width` columns wide (42 R85). -/
def rowBase (width : Nat) (y : Int) : Nat :=
  if y = 0 then 0x80
  else if y = 1 then 0xC0
  else if y = 2 then 0x80 + width
  else if y = 3 then 0xC0 + width
  else 0x80

/-- `col(x)`, for `x` >= 0: clamped to the width itself (42 R86). -/
def clampCol (width : Nat) (x : Int) : Nat := if x > (width : Int) then width else x.toNat

/-- `target(x, y)` as a mathematical integer, never truncated (42 R86). -/
def targetSum (width : Nat) (x y : Int) : Nat := rowBase width y + clampCol width x

/-- The set-address command byte of a sum that fits (30 R49). -/
def targetByte (width : Nat) (x y : Int) : Byte := BitVec.ofNat 8 (targetSum width x y)

/-- The row that `clear(line)` clears, for `line` >= 0 (42 R90). -/
def clampRow (height : Nat) (line : Int) : Int := if line ≥ (height : Int) then (height : Int) - 1 else line

/-- `min(len, S.width)`: the characters print keeps (42 R88). -/
def printLen (len : BitVec 8) (s : State) : Nat := min (zext8 len) s.width.toNat

/-- The row that CLEAR_ROW clears (42 R90). -/
def clearRowOf (line : BitVec 8) (s : State) : Int := clampRow s.height.toNat (sext8 line)

/-- `0x08 | display << 2 | cursor << 1 | blink` (30 R50). -/
def controlByte (display cursor blink : Bool) : Byte :=
  0x08#8 ||| ((BitVec.ofBool display).setWidth 8 <<< 2) ||| ((BitVec.ofBool cursor).setWidth 8 <<< 1)
    ||| (BitVec.ofBool blink).setWidth 8

/-- The set-address command byte of a table offset: bit 7 is 1 (row LCD_SET_ADDRESS). -/
def setAddressByte (offset : BitVec 7) : Byte := 1#1 ++ offset

end Sys2Proof.Machine
end

