-- ==== Sys2Proof/Machine/Ops.lean ====
section
/-! DEFINITION. The named operations: bytes of a buffer, the channel's answers, the channel primitives (20 R26), the settle
timer (60 R117), the host's write of TEXT, the end of a command in each of its three outcomes (60 R107, R111) and reset
(70 R122). -/

namespace Sys2Proof.Machine

/-! ## Buffers -/

/-- The value at an address, if it has one. -/
def Memory.find (a : Nat) : List Host.Cell → Option Byte
  | [] => none
  | c :: cs => if c.1 = a then some c.2 else Memory.find a cs

/-- `MemRead(a, 1)`. What an unlisted address reads as is: nothing, it has no value. [log 6] -/
def Memory.read (m : Memory) (a : Nat) : Option Byte := Memory.find a m.cells

/-- The cells with one written: an earlier cell at the address is replaced, a new one is put in its place. -/
def Memory.insert (a : Nat) (b : Byte) : List Host.Cell → List Host.Cell
  | [] => [(a, b)]
  | c :: cs => if a < c.1 then (a, b) :: c :: cs else if c.1 = a then (a, b) :: cs else c :: Memory.insert a b cs

/-- `MemWrite(a, 1, b)`. -/
def Memory.write (m : Memory) (a : Nat) (b : Byte) : Memory := ⟨Memory.insert a b m.cells⟩

/-- Write bytes at rising addresses from `a`. -/
def Memory.writeFrom (m : Memory) (a : Nat) : List Byte → Memory
  | [] => m
  | b :: bs => (m.write a b).writeFrom (a + 1) bs

/-- Read `n` bytes at rising addresses from `a`; nothing if one of them has no value. -/
def Memory.readFrom (m : Memory) (a : Nat) : Nat → Option (List Byte)
  | 0 => some []
  | n + 1 => match m.read a with
    | none => none
    | some b => match m.readFrom (a + 1) n with
      | none => none
      | some bs => some (b :: bs)

/-- Strictly rising addresses. -/
def Memory.rising : List Host.Cell → Bool
  | [] => true
  | [_] => true
  | c :: d :: cs => decide (c.1 < d.1) && Memory.rising (d :: cs)

/-- The canonical form: addresses strictly rising. No entry can equal what an unlisted address reads as, since that is
no value. -/
def Memory.wf (m : Memory) : Bool := Memory.rising m.cells

/-! ## The trace and the channel's answers -/

/-- Append an event to the trace (00_scope R8). -/
def emit (e : Event) (s : State) : State := { s with trace := s.trace ++ [e] }

/-- The channel's next bool answer: the next one of the list, else a free one (20 R27). [log 3] -/
def nextBool (s : State) : Bool × State :=
  match s.boolAnswers with
  | a :: rest => (a, { s with boolAnswers := rest })
  | [] => (Config.freeAnswer s.freeIdx, { s with freeIdx := s.freeIdx + 1 })

/-- The channel's next error code: the next one of the list, else a free one (20 R27). [log 3, 4] -/
def nextCode (s : State) : Nat × State :=
  match s.codeAnswers with
  | c :: rest => (c, { s with codeAnswers := rest })
  | [] => (Config.freeCode s.freeIdx, { s with freeIdx := s.freeIdx + 1 })

/-! ## The channel primitives (20 R26) and the settle timer -/

/-- `ChanOpen(p)`. -/
def chanOpen (p : BitVec 8) (s : State) : Bool × State := nextBool (emit (.chanOpen p) s)

/-- `ChanBind(a)`. -/
def chanBind (a : BitVec 7) (s : State) : Bool × State := nextBool (emit (.bind a) s)

/-- `ChanWrite(b)`. -/
def chanWrite (b : Byte) (s : State) : Bool × State := nextBool (emit (.write b) s)

/-- `ChanBlockWrite(bs)`; 0 means no error. -/
def chanBlockWrite (bs : List Byte) (s : State) : Nat × State := nextCode (emit (.blockWrite bs) s)

/-- `ChanRelease()`. -/
def chanRelease (s : State) : State := emit .release s

/-- `Delay(n)` (60 R117): recorded, and no time is modelled. [log 21] -/
def delay (n : Nat) (s : State) : State := emit (.delay n) s

/-! ## The start and the end of a command -/

/-- The sequencer stands at the operation's first send (10_state R16). -/
def beginOp (op : Op) (s : State) : State := { s with seq := .start op }

/-- `return success`: the response, and the sequencer idle (10_state R16, R17). -/
def endSuccess (s : State) : State := { s with resp := .success, seq := .idle }

/-- `return failure(err)` (60 R111): no state is saved and nothing is rolled back. -/
def endFailure (e : Err) (s : State) : State := { s with resp := .failure e, seq := .idle }

/-- A command ends with success or with a failure. -/
def endWith (ok : Bool) (e : Err) (s : State) : State := if ok then endSuccess s else endFailure e s

/-- `raise Refused(reason)` (60 R107): the response and the sticky flag, and nothing else. There is no handler and
no return (60 R113): the next command is admitted by the usual rules. [log 18] -/
def raiseRefused (r : Reason) (s : State) : State := { s with resp := .refused r, fault := true }

/-! ## The host's other two actions -/

/-- The host writes one byte of TEXT (10_state R21). -/
def hostWriteText (i : Nat) (b : Byte) (s : State) : Host.Outcome State Fault Refusal :=
  if i < Config.textMax then .next { s with text := s.text.write i b } else .fault .textAddress

/-- Reset (70 R122, R123): every field of 10_state R9 as after reset; nothing is appended to the trace; the straps, the
channel's coming answers and the host's coming actions are not the engine's to reset. [log 10] -/
def resetPulse (s : State) : State :=
  { State.resetWith s.straps with
    trace := s.trace, boolAnswers := s.boolAnswers, codeAnswers := s.codeAnswers, freeIdx := s.freeIdx, inbox := s.inbox }

end Sys2Proof.Machine
end

