-- ==== Sys2Proof/Machine/BitPacker.lean ====
section
/-! DEFINITION. The Bit Packer (40 R61 to R64) and the nibble-expanded sequence of a frame (41 R66). -/

namespace Sys2Proof.Machine

/-- A bit at a place. -/
def bitAt (b : Bool) (p : CtlPos) : Byte := (BitVec.ofBool b).setWidth 8 <<< p.num

/-- `pack(rs, bl, n, en)` (40 R61): only the low 4 bits of `n` are used. -/
def pack (c : ControlBits) (rs bl : Bool) (n : Nat) (en : Bool) : Byte :=
  bitAt rs c.rs ||| bitAt Config.rwWrite c.rw ||| bitAt en c.en ||| bitAt bl c.bl ||| BitVec.ofNat 8 (n % 16)

/-- `pair(rs, bl, n)` (40 R62): strobe 1, then strobe 0. -/
def pair (c : ControlBits) (rs bl : Bool) (n : Nat) : List Byte := [pack c rs bl n true, pack c rs bl n false]

/-- `hi(b)` (40 R64). -/
def hiNibble (b : Byte) : Nibble := b.extractLsb' 4 4

/-- `lo(b)` (40 R64). -/
def loNibble (b : Byte) : Nibble := b.extractLsb' 0 4

/-- The register-select bit of a mode (41 R65, R66). -/
def Mode.rs : Mode → Bool
  | .cmd => false
  | .data => true
  | .startup => false

/-- A TransportByte of a frame with its sequencer position inside the frame (10_state R16). -/
structure Slot where
  byte : Nat
  nib  : Nib
  en   : Bool
  val  : Byte
  deriving DecidableEq, Repr

/-- The two TransportBytes of a nibble, with their positions. -/
def nibbleSlots (c : ControlBits) (rs bl : Bool) (byte : Nat) (nib : Nib) (n : Nat) : List Slot :=
  [⟨byte, nib, true, pack c rs bl n true⟩, ⟨byte, nib, false, pack c rs bl n false⟩]

/-- The TransportBytes of full payload bytes, the first of them at index `byte`: high nibble, then low nibble (30 R46). -/
def fullSlots (c : ControlBits) (rs bl : Bool) (byte : Nat) : List Byte → List Slot
  | [] => []
  | b :: bs =>
    nibbleSlots c rs bl byte .hi (hiNibble b).toNat ++ nibbleSlots c rs bl byte .lo (loNibble b).toNat
      ++ fullSlots c rs bl (byte + 1) bs

/-- The TransportBytes of a frame with their positions (41 R66). A startup frame is the high nibble of the first byte
and looks at no other (41 R71). -/
def frameSlots (c : ControlBits) (mode : Mode) (bl : Bool) (payload : List Byte) : List Slot :=
  match mode with
  | .startup => nibbleSlots c false bl 0 .hi (hiNibble (payload.headD 0)).toNat
  | .cmd => fullSlots c Mode.cmd.rs bl 0 payload
  | .data => fullSlots c Mode.data.rs bl 0 payload

/-- `expand(mode, bl, payload)` (41 R66). -/
def expand (c : ControlBits) (mode : Mode) (bl : Bool) (payload : List Byte) : List Byte :=
  (frameSlots c mode bl payload).map Slot.val

end Sys2Proof.Machine
end

