-- ==== Sys2Proof/Machine/Transport.lean ====
section
/-! DEFINITION. The Frame Transport: the raw writer (41 R68 to R71), the block writer (41 R72 to R76) and their one
contract `send` (41 R65, R67). -/

namespace Sys2Proof.Machine

/-- The sequencer moves to a byte of the frame. -/
def moveTo (sl : Slot) (s : State) : State := { s with seq := s.seq.place sl.byte sl.nib sl.en }

/-! ## Raw writer -/

/-- The physical writes of a frame: every byte is attempted, the good answers are counted (41 R68). -/
def rawWrites : List Slot → State → Nat × State
  | [], s => (0, s)
  | sl :: rest, s =>
    let w := chanWrite sl.val (moveTo sl s)
    let r := rawWrites rest w.2
    (r.1 + (if w.1 then 1 else 0), r.2)

/-- Physical writes of bytes: good when every one was answered good (41 R69). -/
def rawTransmit (slots : List Slot) (s : State) : Bool × State :=
  let r := rawWrites slots s
  (r.1 == slots.length, r.2)

/-- `RawDelay(settle)` (41 R70): the caller's delay if it is not zero, otherwise the default. -/
def rawDelay (settle : Nat) (s : State) : State :=
  if settle ≠ 0 then delay settle s else delay s.straps.tDefaultUs s

/-- `RawSend` (41 R68). -/
def rawSend (mode : Mode) (bl : Bool) (payload : List Byte) (settle : Nat) (s : State) : Bool × State :=
  let r := rawTransmit (frameSlots s.straps.bits mode bl payload) s
  (r.1, rawDelay settle r.2)

/-! ## Block writer -/

/-- Fill STAGE from its start, before the first block write (41 R72). -/
def stageFrame (slots : List Slot) (s : State) : State :=
  { s with
    stage := s.stage.writeFrom 0 (slots.map Slot.val)
    stageLen := BitVec.ofNat 7 slots.length
    seq := slots.foldl (fun q sl => q.place sl.byte sl.nib sl.en) s.seq }

/-- The one or two block writes of the staged bytes (41 R72, R73): both are issued, the codes are combined by bitwise or
(41 R74). -/
def blockWrites (bytes : List Byte) (s : State) : Nat × State :=
  if bytes.length ≤ Config.chunkMax then
    let w := chanBlockWrite bytes s
    (0 ||| w.1, w.2)
  else
    let w1 := chanBlockWrite (bytes.take Config.chunkMax) s
    let w2 := chanBlockWrite (bytes.drop Config.chunkMax) w1.2
    (0 ||| w1.1 ||| w2.1, w2.2)

/-- `STAGE[0 .. n-1]`. Every byte of it has been staged when it is read (`Laws.stagedBytes_stageFrame`). -/
def stagedBytes (n : Nat) (s : State) : List Byte := (s.stage.readFrom 0 n).getD []

/-- After the send the contents of STAGE are unspecified (10_state R20): no byte of it has a value. [log 7] -/
def dropStage (s : State) : State := { s with stage := ⟨[]⟩ }

/-- Stage, and hand STAGE to the channel: good when the combined code is zero (41 R72, R74). -/
def blockTransmit (slots : List Slot) (s : State) : Bool × State :=
  let t := stageFrame slots s
  let r := blockWrites (stagedBytes slots.length t) t
  (r.1 == 0, dropStage r.2)

/-- The block writer's delays (41 R75): the caller's, zero or not, and then the default. -/
def blockDelay (settle : Nat) (s : State) : State := delay s.straps.tDefaultUs (delay settle s)

/-- `BlockSend` (41 R72). -/
def blockSend (mode : Mode) (bl : Bool) (payload : List Byte) (settle : Nat) (s : State) : Bool × State :=
  let r := blockTransmit (frameSlots s.straps.bits mode bl payload) s
  (r.1, blockDelay settle r.2)

/-! ## The contract -/

/-- Hand TransportBytes to the channel by the sender the engine has (41 R67), with no delay after them. -/
def transmit (slots : List Slot) (s : State) : Bool × State :=
  match s.straps.transport with
  | .raw => rawTransmit slots s
  | .block => blockTransmit slots s

/-- The sequencer moves on after the frame's delay (10_state R16). -/
def frameDone (s : State) : State := { s with seq := s.seq.nextSend }

/-- `send(mode, bl, payload, settle)` (41 R65): the sender the strap names (41 R67). -/
def send (mode : Mode) (bl : Bool) (payload : List Byte) (settle : Nat) (s : State) : Bool × State :=
  let r := match s.straps.transport with
    | .raw => rawSend mode bl payload settle s
    | .block => blockSend mode bl payload settle s
  (r.1, frameDone r.2)

/-- `position(x, y)` (42 R95): the positioning send, with the backlight that stands and the default settle. -/
def position (x y : Int) (s : State) : Bool × State :=
  send .cmd s.bl [targetByte s.width.toNat x y] 0 s

end Sys2Proof.Machine
end

