-- ==== Sys2Proof/Machine/Admission.lean ====
section
/-! DEFINITION. Admission (42 R80): each operation's checks in the table's order; the first that fails names the refusal.
Check 1 is the decoder's (30 R56) and stands in Machine/Fetch.lean. -/

namespace Sys2Proof.Machine

/-- A check and the reason if it fails. -/
abbrev Check := Bool × Reason

/-- The reason of the first check that fails (42 R80, 60 R110). -/
def firstFailing : List Check → Option Reason
  | [] => none
  | c :: cs => if c.1 then firstFailing cs else some c.2

/-- Check 2. -/
def checkClosed (s : State) : Check := (s.session == .closed, .sessionBusy)

/-- Check 3. -/
def checkOpened (s : State) : Check := (s.session == .opened, .noSession)

/-- Check 4. -/
def checkUninitialized (s : State) : Check := (s.phase == .uninitialized, .alreadyInitialized)

/-- Check 5. -/
def checkReady (s : State) : Check := (s.phase == .ready, .notReady)

/-- Check 6. -/
def checkGeometry (height width : BitVec 8) : Check := (geometryLegal height width, .badGeometry)

/-- Check 7. -/
def checkColumn (x : BitVec 8) : Check := (decide (0 ≤ sext8 x), .badOperand)

/-- Check 8. -/
def checkLength (len : BitVec 8) : Check := (decide (1 ≤ zext8 len), .emptyPayload)

/-- Check 9. -/
def checkTarget (x y : Int) (s : State) : Check := (decide (targetSum s.width.toNat x y ≤ 0xFF), .addressOverflow)

/-- Check 10: a data frame of `n` payload bytes stages `4 * n` TransportBytes (41 R77). -/
def checkStaging (n : Nat) (s : State) : Check :=
  (match s.straps.transport with
    | .raw => true
    | .block => decide (4 * n ≤ Config.stageCap), .stagingOverflow)

/-- OPEN: check 2. -/
def openChecks (s : State) : List Check := [checkClosed s]

/-- INIT: checks 3, 4, 6. -/
def initChecks (height width : BitVec 8) (s : State) : List Check :=
  [checkOpened s, checkUninitialized s, checkGeometry height width]

/-- GOTO: checks 3, 5, 7, 9. -/
def gotoChecks (y x : BitVec 8) (s : State) : List Check :=
  [checkOpened s, checkReady s, checkColumn x, checkTarget (sext8 x) (sext8 y) s]

/-- PRINT: checks 3, 5, 7, 8, 9, 10. -/
def printChecks (len y x : BitVec 8) (s : State) : List Check :=
  [checkOpened s, checkReady s, checkColumn x, checkLength len, checkTarget (sext8 x) (sext8 y) s,
    checkStaging (printLen len s) s]

/-- CLEAR with `line` >= 0: checks 3, 5, 9, 10. -/
def clearRowChecks (line : BitVec 8) (s : State) : List Check :=
  [checkOpened s, checkReady s, checkTarget 0 (clearRowOf line s) s, checkStaging s.width.toNat s]

/-- CLEAR with `line` < 0, BACKLIGHT and CONTROL: checks 3, 5. -/
def readyChecks (s : State) : List Check := [checkOpened s, checkReady s]

/-- Refuse with the first failing check's reason, before the operation's first action; otherwise run it (42 R80). -/
def admitThen (checks : List Check) (s : State) (run : State → Host.Outcome State Fault Refusal) :
    Host.Outcome State Fault Refusal :=
  match firstFailing checks with
  | some r => .next (raiseRefused r s)
  | none => run s

end Sys2Proof.Machine
end

