-- ==== Sys2Proof/Machine/Engine.lean ====
section
/-! DEFINITION. The Protocol Engine: INIT, GOTO, PRINT, CLEAR, BACKLIGHT, CONTROL (42 R81 to R95). -/

namespace Sys2Proof.Machine

/-! ## init -/

/-- A line of the table of 42 R82. -/
structure InitStep where
  k      : Nat
  mode   : Mode
  byte   : Byte
  settle : Nat
  deriving DecidableEq, Repr

/-- `STEP[1]` to `STEP[9]` (42 R82). -/
def initTable : List InitStep :=
  [⟨1, .startup, 0x30, 15000⟩,
   ⟨2, .startup, 0x30, 4100⟩,
   ⟨3, .startup, 0x30, 100⟩,
   ⟨4, .startup, 0x20, 4100⟩,
   ⟨5, .cmd, 0x28, 100⟩,
   ⟨6, .cmd, 0x08, 100⟩,
   ⟨7, .cmd, 0x01, 100⟩,
   ⟨8, .cmd, 0x06, 100⟩,
   ⟨9, .cmd, 0x0C, 100⟩]

/-- The backlight of an init step: forced off until the last (42 R81, R82). -/
def InitStep.bl (st : InitStep) (on : Bool) : Bool := st.k == Config.initSteps && on

/-- Run init steps in order, all of them, and count the sends that succeed (42 R81, R83). -/
def runSteps (on : Bool) : List InitStep → State → Nat × State
  | [], s => (0, s)
  | st :: rest, s =>
    let r := send st.mode (st.bl on) [st.byte] st.settle s
    let q := runSteps on rest r.2
    ((if r.1 then 1 else 0) + q.1, q.2)

/-- The geometry registers (10_state R13); a legal operand fits them. [log 25] -/
def setGeometry (height width : BitVec 8) (s : State) : State :=
  { s with width := width.setWidth 7, height := height.setWidth 3 }

/-- The body of INIT (42 R81, R83, R84). -/
def runInit (on : Bool) (height width : BitVec 8) (s : State) : State :=
  let r := runSteps on initTable (beginOp .init (setGeometry height width s))
  let t := setDisplay on true false false r.2
  if r.1 = Config.initSteps then endSuccess { t with phase := .ready } else endFailure .initSequenceIncomplete t

/-- INIT (42 R81). -/
def execInit (on : Bool) (height width : BitVec 8) (s : State) : Host.Outcome State Fault Refusal :=
  admitThen (initChecks height width s) s fun s => .next (runInit on height width s)

/-! ## goto, print, clear -/

/-- The body of GOTO (42 R87). -/
def runGoto (y x : BitVec 8) (s : State) : State :=
  let r := position (sext8 x) (sext8 y) (beginOp .goto s)
  endWith r.1 .transportWrite r.2

/-- GOTO (42 R87). -/
def execGoto (y x : BitVec 8) (s : State) : Host.Outcome State Fault Refusal :=
  admitThen (gotoChecks y x s) s fun s => .next (runGoto y x s)

/-- Fill LINE from its start (10_state R19). -/
def fillLine (bytes : List Byte) (s : State) : State :=
  { s with line := s.line.writeFrom 0 bytes, lineLen := BitVec.ofNat 7 bytes.length }

/-- `LINE[0 .. n-1]`. Every byte of it has been filled when it is read (`Laws.lineBytes_fillLine`). -/
def lineBytes (n : Nat) (s : State) : List Byte := (s.line.readFrom 0 n).getD []

/-- After the command the contents of LINE are unspecified (10_state R19): no byte of it has a value. [log 7] -/
def dropLine (s : State) : State := { s with line := ⟨[]⟩ }

/-- Fill LINE, make the positioning send and, if it succeeds, send LINE as one data frame (42 R88, R90). -/
def sendLine (x y : Int) (bytes : List Byte) (s : State) : State :=
  let p := position x y (fillLine bytes s)
  dropLine
    (if p.1 then
      let d := send .data p.2.bl (lineBytes bytes.length p.2) 0 p.2
      endWith d.1 .transportWrite d.2
    else endFailure .transportWrite p.2)

/-- The body of PRINT (42 R88): a byte of TEXT that nothing has written is a fault (10_state R24). [log 6] -/
def runPrint (len y x : BitVec 8) (s : State) : Host.Outcome State Fault Refusal :=
  match s.text.readFrom 0 (printLen len s) with
  | none => .fault .textUnspecified
  | some bytes => .next (sendLine (sext8 x) (sext8 y) bytes (beginOp .print s))

/-- PRINT (42 R88). -/
def execPrint (len y x : BitVec 8) (s : State) : Host.Outcome State Fault Refusal :=
  admitThen (printChecks len y x s) s (runPrint len y x)

/-- The body of CLEAR with `line` < 0 (42 R89). -/
def runClearAll (s : State) : State :=
  let r := send .cmd s.bl [0x01#8] 2000 (beginOp .clearAll s)
  endWith r.1 .transportWrite r.2

/-- CLEAR_ALL (42 R89): every negative `line` does the same. -/
def execClearAll (_line : BitVec 8) (s : State) : Host.Outcome State Fault Refusal :=
  admitThen (readyChecks s) s fun s => .next (runClearAll s)

/-- The body of CLEAR with `line` >= 0 (42 R90). -/
def runClearRow (line : BitVec 8) (s : State) : State :=
  sendLine 0 (clearRowOf line s) (List.replicate s.width.toNat 0x20#8) (beginOp .clearRow s)

/-- CLEAR_ROW (42 R90). -/
def execClearRow (line : BitVec 8) (s : State) : Host.Outcome State Fault Refusal :=
  admitThen (clearRowChecks line s) s fun s => .next (runClearRow line s)

/-! ## set_backlight, set_control -/

/-- The body of BACKLIGHT (42 R91, R94). -/
def runBacklight (on : Bool) (s : State) : State :=
  let r := send .cmd on [0x00#8] 0 { beginOp .backlight s with bl := on }
  endWith r.1 .transportWrite r.2

/-- BACKLIGHT (42 R91). -/
def execBacklight (on : Bool) (s : State) : Host.Outcome State Fault Refusal :=
  admitThen (readyChecks s) s fun s => .next (runBacklight on s)

/-- The body of CONTROL (42 R92, R94). -/
def runControl (bl disp cur blink : Bool) (s : State) : State :=
  let r := send .cmd bl [controlByte disp cur blink] 0 (setDisplay bl disp cur blink (beginOp .control s))
  endWith r.1 .transportWrite r.2

/-- CONTROL (42 R92). -/
def execControl (bl disp cur blink : Bool) (s : State) : Host.Outcome State Fault Refusal :=
  admitThen (readyChecks s) s fun s => .next (runControl bl disp cur blink s)

end Sys2Proof.Machine
end

