-- ==== Sys2Proof/Machine/Session.lean ====
section
/-! DEFINITION. The Device Session: OPEN and CLOSE (43 R96 to R98). -/

namespace Sys2Proof.Machine

/-- A session begins (43 R96). -/
def beginSession (path : BitVec 8) (address : BitVec 7) (s : State) : State :=
  { s with session := .opened, phase := .uninitialized, path := path, addr := address }

/-- A session ends (43 R98). -/
def endSession (s : State) : State := { s with session := .closed, phase := .uninitialized }

/-- The body of OPEN (43 R96, R97). -/
def runOpen (path : BitVec 8) (address : BitVec 7) (s : State) : State :=
  let o := chanOpen path (beginOp .openDev s)
  if o.1 then
    let b := chanBind address o.2
    if b.1 then endSuccess (beginSession path address b.2)
    else endFailure .addressBind (chanRelease b.2)
  else endFailure .channelOpen o.2

/-- OPEN (43 R96). -/
def execOpen (path : BitVec 8) (address : BitVec 7) (s : State) : Host.Outcome State Fault Refusal :=
  admitThen (openChecks s) s fun s => .next (runOpen path address s)

/-- The body of CLOSE with a session open: the result of the frame is ignored (43 R98). -/
def runClose (s : State) : State :=
  let r := send .cmd false [0x00#8] 0 { beginOp .close s with bl := false }
  endSuccess (endSession (chanRelease r.2))

/-- CLOSE (43 R98): admitted in every macro-state, and with no session it does nothing but respond. -/
def execClose (s : State) : Host.Outcome State Fault Refusal :=
  match s.session with
  | .closed => .next (endSuccess s)
  | .opened => .next (runClose s)

end Sys2Proof.Machine
end

