-- ==== Sys2Proof/Machine/Wire.lean ====
section
/-! DEFINITION. The wire rows of the table, each as the one thing the engine does when it emits that row: a TransportByte
handed to the channel, or one frame (30 R44, R47, R48, R51). The host cannot issue them (41 R65); they run only while a
session is open (20 R26). [log 11] -/

namespace Sys2Proof.Machine

/-- Run a wire operation while a session is open (20 R26). -/
def withSession (s : State) (run : State → State) : Host.Outcome State Fault Refusal :=
  match s.session with
  | .closed => .refused .wireNoSession
  | .opened => .next (run s)

/-- The init step the sequencer stands at, if it stands in init (10_state R16). -/
def initStepNow (s : State) : Option InitStep :=
  match s.seq with
  | .running .init k _ _ _ => initTable.find? fun st => st.k == k
  | _ => none

/-- The init step the sequencer stands at, if that step sends this payload. -/
def initStepFor (mode : Mode) (byte : Byte) (s : State) : Option InitStep :=
  match initStepNow s with
  | none => none
  | some st => if st.mode = mode ∧ st.byte = byte then some st else none

/-- One frame of one payload byte. Inside init it has the backlight and the settle figure of the step the sequencer
stands at, the requested backlight being bit 16 of the latched INIT word (42 R82, 30 R53); elsewhere it has the ones
given. The result goes to no one: a wire row has no response. [log 12] -/
def wireFrame (mode : Mode) (byte : Byte) (bl : Bool) (settle : Nat) (s : State) : State :=
  match initStepFor mode byte s with
  | some st => (send mode (st.bl (s.cmd.getLsbD 16)) [byte] st.settle s).2
  | none => (send mode bl [byte] settle s).2

/-- The settle figure of a wake-up attempt (42 R82 steps 1 to 3). -/
def wakeSettle (attempt : Fin 3) : Nat := if attempt = 0 then 15000 else if attempt = 1 then 4100 else 100

/-- Take a free value's place in the sequence of free values. -/
def nextFree (s : State) : State := { s with freeIdx := s.freeIdx + 1 }

/-- TBYTE (40 R61): the byte is packed and handed to the channel, with no delay; the sequencer stays where it was. [log 14] -/
def execTbyte (rs en bl : Bool) (nibble : BitVec 4) (s : State) : Host.Outcome State Fault Refusal :=
  withSession s fun s =>
    { (transmit [⟨0, .hi, en, pack s.straps.bits rs bl nibble.toNat en⟩] s).2 with seq := s.seq }

/-- LCD_WAKE (42 R82 steps 1 to 3, 41 R71). Outside init the spec does not say which attempt's figure applies: a free
value, one of the three. [log 13] -/
def execLcdWake (s : State) : Host.Outcome State Fault Refusal :=
  withSession s fun s => wireFrame .startup 0x30 false (wakeSettle (Config.freeWakeAttempt s.freeIdx)) (nextFree s)

/-- LCD_MODE4 (42 R82 step 4, 41 R71). -/
def execLcdMode4 (s : State) : Host.Outcome State Fault Refusal :=
  withSession s (wireFrame .startup 0x20 false 4100)

/-- LCD_FUNCTION_SET (42 R82 step 5). -/
def execLcdFunctionSet (s : State) : Host.Outcome State Fault Refusal :=
  withSession s (wireFrame .cmd 0x28 false 100)

/-- LCD_CLEAR_DISPLAY (42 R89; inside init, R82 step 7). -/
def execLcdClearDisplay (s : State) : Host.Outcome State Fault Refusal :=
  withSession s fun s => wireFrame .cmd 0x01 s.bl 2000 s

/-- LCD_ENTRY_MODE (42 R82 step 8). -/
def execLcdEntryMode (s : State) : Host.Outcome State Fault Refusal :=
  withSession s (wireFrame .cmd 0x06 false 100)

/-- LCD_DISPLAY_CONTROL (30 R50, 42 R92, R93; inside init, R82 steps 6 and 9). It writes no flag: only the operations of
10_state R14 do. -/
def execLcdDisplayControl (display cursor blink : Bool) (s : State) : Host.Outcome State Fault Refusal :=
  withSession s fun s => wireFrame .cmd (controlByte display cursor blink) s.bl 0 s

/-- LCD_BACKLIGHT_CARRIER (42 R91, R93). -/
def execLcdBacklightCarrier (s : State) : Host.Outcome State Fault Refusal :=
  withSession s fun s => wireFrame .cmd 0x00 s.bl 0 s

/-- LCD_SET_ADDRESS (42 R95, R93). -/
def execLcdSetAddress (offset : BitVec 7) (s : State) : Host.Outcome State Fault Refusal :=
  withSession s fun s => wireFrame .cmd (setAddressByte offset) s.bl 0 s

/-- LCD_DATA (30 R51, 42 R93): a data frame of one character code. [log 15] -/
def execLcdData (code : BitVec 8) (s : State) : Host.Outcome State Fault Refusal :=
  withSession s fun s => wireFrame .data code s.bl 0 s

end Sys2Proof.Machine
end

