-- ==== Sys2Proof/Machine/Dispatch.lean ====
section
/-! DEFINITION. One arm per row of spec/opcode_table.json. -/

namespace Sys2Proof.Machine

/-- What an instruction does in a state. -/
def exec (i : Instr) (s : State) : Host.Outcome State Fault Refusal :=
  match i with
  | .openDev path address => Sys2Proof.Machine.execOpen path address s
  | .init backlightOn height width => Sys2Proof.Machine.execInit backlightOn height width s
  | .goto y x => Sys2Proof.Machine.execGoto y x s
  | .print len y x => Sys2Proof.Machine.execPrint len y x s
  | .clearAll line => Sys2Proof.Machine.execClearAll line s
  | .clearRow line => Sys2Proof.Machine.execClearRow line s
  | .backlight on => Sys2Proof.Machine.execBacklight on s
  | .control backlight displayOn cursorOn blink => Sys2Proof.Machine.execControl backlight displayOn cursorOn blink s
  | .close => Sys2Proof.Machine.execClose s
  | .tbyte rs en bl nibble => Sys2Proof.Machine.execTbyte rs en bl nibble s
  | .lcdWake => Sys2Proof.Machine.execLcdWake s
  | .lcdMode4 => Sys2Proof.Machine.execLcdMode4 s
  | .lcdFunctionSet => Sys2Proof.Machine.execLcdFunctionSet s
  | .lcdClearDisplay => Sys2Proof.Machine.execLcdClearDisplay s
  | .lcdEntryMode => Sys2Proof.Machine.execLcdEntryMode s
  | .lcdDisplayControl display cursor blink => Sys2Proof.Machine.execLcdDisplayControl display cursor blink s
  | .lcdBacklightCarrier => Sys2Proof.Machine.execLcdBacklightCarrier s
  | .lcdSetAddress offset => Sys2Proof.Machine.execLcdSetAddress offset s
  | .lcdData code => Sys2Proof.Machine.execLcdData code s

end Sys2Proof.Machine
end

