-- ==== Sys2Proof/Machine/Fetch.lean ====
section
/-! DEFINITION. What a step takes from the input queue: nothing, a host action that is over at once, or an instruction to
run. Check 1 of 42 R80 stands here. -/

namespace Sys2Proof.Machine

/-- What the head of the input queue comes to. -/
inductive Fetched where
  /-- the step is over -/
  | done (o : Host.Outcome State Fault Refusal)
  /-- an instruction runs in this state -/
  | run (i : Instr) (s : State)

/-- A word is taken in: a host command word is latched (30 R52); a wire word leaves the latch alone. -/
def latch (f : Format) (w : Word) (s : State) : State :=
  match f with
  | .host32 => { s with cmd := w }
  | .tbyte8 => s
  | .lcd4 => s
  | .lcd8 => s
  | .lcd8data => s

/-- A word that is no instruction: a host word is refused as `IllegalCommand` (30 R56, 42 R80 check 1), a wire word has
no meaning. [log 18, 19] -/
def illegalWord (f : Format) (e : DecodeError) (s : State) : Host.Outcome State Fault Refusal :=
  match f with
  | .host32 => .next (raiseRefused .illegalCommand s)
  | .tbyte8 => .refused (.notAWireWord e)
  | .lcd4 => .refused (.notAWireWord e)
  | .lcd8 => .refused (.notAWireWord e)
  | .lcd8data => .refused (.notAWireWord e)

/-- Take the next input (00_scope R5). With none the engine is idle and holds its state (60 R121). [log 9] -/
def fetch (s : State) : Fetched :=
  match s.inbox with
  | [] => .done (.next s)
  | .resetPulse :: rest => .done (.next (resetPulse { s with inbox := rest }))
  | .text i b :: rest => .done (hostWriteText i b { s with inbox := rest })
  | .word f w :: rest =>
    match decode f w with
    | .ok i => .run i (latch f w { s with inbox := rest })
    | .bad e => .done (illegalWord f e (latch f w { s with inbox := rest }))

/-- Put a word where the next step takes it. A wire word runs only inside a session, so placing one opens it. [log 11] -/
def placeWord (f : Format) (w : Word) (s : State) : State :=
  match f with
  | .host32 => { s with inbox := .word f w :: s.inbox }
  | .tbyte8 => { s with inbox := .word f w :: s.inbox, session := .opened }
  | .lcd4 => { s with inbox := .word f w :: s.inbox, session := .opened }
  | .lcd8 => { s with inbox := .word f w :: s.inbox, session := .opened }
  | .lcd8data => { s with inbox := .word f w :: s.inbox, session := .opened }

/-- The format in which a table word is placed that `tableFormat` reads in none: 32 bits are a host command word (30 R52),
any other width is no host word (30 R57) and stands on the wire side. The model's choice. [log 28] -/
def strayFormat (nbits : Nat) : Format := if nbits = 32 then .host32 else .lcd4

/-- The bits of such a word as they are placed, never bits that are an instruction of `strayFormat`: those of a host word
or a nibble as they stand, all ones for any other width, and for a number too big for a word. The model's
choice. [log 28] -/
def strayWord (nbits w : Nat) : Word :=
  if nbits = 32 ∨ nbits = 4 then BitVec.ofNat 32 (min w 0xFFFFFFFF) else 0xFFFFFFFF#32

end Sys2Proof.Machine
end

