-- ==== Sys2Proof/Machine/Step.lean ====
section
/-! DEFINITION. One step: take the next input; run the instruction it is. A whole host command is one step (10_state R16).
[log 8] -/

namespace Sys2Proof.Machine

/-- One step of the machine. -/
def step (s : State) : Host.Outcome State Fault Refusal :=
  match fetch s with
  | .done o => o
  | .run i t => exec i t

/-- The state with a table word put where the next step takes it, in the format `tableFormat` reads it in. A word
that it reads in none is placed where the step refuses it, in no case as an instruction: of 32 bits as the illegal command
of 30 R56, of any other width as a wire word that is no row. Where it is placed is the model's choice. [log 9, 11, 16, 28] -/
def State.withFetchWord (s : State) (nbits w : Nat) : State :=
  match tableFormat nbits w with
  | some f => placeWord f (BitVec.ofNat 32 w) s
  | none => placeWord (strayFormat nbits) (strayWord nbits w) s

end Sys2Proof.Machine
end

