-- ==== Sys2Proof/Safety.lean ====
section
/-! DEFINITION. The terms statements are made in: the channel's coming answers, the events of a frame written out from the
spec's tables and not by the senders, what an operation leaves alone, and the invariant of the machine. -/

namespace Sys2Proof.Safety

open Sys2Proof.Machine

/-! ## The channel's coming answers (20 R27) -/

/-- The bool answer to the `k`-th bool primitive called from here on. -/
def boolAt (s : State) (k : Nat) : Bool :=
  match s.boolAnswers[k]? with
  | some b => b
  | none => Config.freeAnswer (s.freeIdx + (k - s.boolAnswers.length))

/-- The error code of the `k`-th block write called from here on. -/
def codeAt (s : State) (k : Nat) : Nat :=
  match s.codeAnswers[k]? with
  | some c => c
  | none => Config.freeCode (s.freeIdx + (k - s.codeAnswers.length))

/-- The `n` physical writes after the first `off` are all answered good. -/
def writesGood (s : State) (off n : Nat) : Bool := (List.range n).all fun k => boolAt s (off + k)

/-- The `n` block writes after the first `off` all return 0. -/
def codesGood (s : State) (off n : Nat) : Bool := (List.range n).all fun k => codeAt s (off + k) == 0

/-- How many block writes a frame of `n` TransportBytes takes (41 R73). -/
def chunkCount (n : Nat) : Nat := if n ≤ 32 then 1 else 2

/-- A frame of `n` TransportBytes succeeds (41 R69, R74), when `w` physical writes or `c` block writes of the same command
come before it. -/
def frameGood (s : State) (w c n : Nat) : Bool :=
  match s.straps.transport with
  | .raw => writesGood s w n
  | .block => codesGood s c (chunkCount n)

/-- The nine sends of an init that starts here all succeed: 28 physical writes, or 9 block writes, are answered good (42 R83). -/
def initGood (s : State) : Bool :=
  match s.straps.transport with
  | .raw => writesGood s 0 28
  | .block => codesGood s 0 9

/-! ## Frames -/

/-- `group(rs, bl, b)` (30 R46). -/
def group (c : ControlBits) (rs bl : Bool) (b : Byte) : List Byte :=
  [pack c rs bl (b.toNat / 16) true, pack c rs bl (b.toNat / 16) false,
   pack c rs bl (b.toNat % 16) true, pack c rs bl (b.toNat % 16) false]

/-- The TransportBytes of a frame (30 R46, R47): groups of the payload bytes in order, or the one nibble of a startup
frame. -/
def frameBytes (c : ControlBits) (mode : Mode) (bl : Bool) (payload : List Byte) : List Byte :=
  match mode with
  | .startup => pair c false bl ((payload.headD 0).toNat / 16)
  | .cmd => payload.flatMap (group c false bl)
  | .data => payload.flatMap (group c true bl)

/-- The block writes of a sequence of TransportBytes (41 R73). -/
def chunkEvents (bytes : List Byte) : List Event :=
  if bytes.length ≤ 32 then [.blockWrite bytes] else [.blockWrite (bytes.take 32), .blockWrite (bytes.drop 32)]

/-- The events of handing TransportBytes to the channel (41 R68, R73). -/
def byteEvents (st : Straps) (bytes : List Byte) : List Event :=
  match st.transport with
  | .raw => bytes.map .write
  | .block => chunkEvents bytes

/-- The delays of a frame (41 R70, R75; 70 R135). -/
def settleEvents (st : Straps) (settle : Nat) : List Event :=
  match st.transport with
  | .raw => [.delay (if settle = 0 then st.tDefaultUs else settle)]
  | .block => [.delay settle, .delay st.tDefaultUs]

/-- All the events of a frame. -/
def frameEvents (st : Straps) (mode : Mode) (bl : Bool) (payload : List Byte) (settle : Nat) : List Event :=
  byteEvents st (frameBytes st.bits mode bl payload) ++ settleEvents st settle

/-- The nine lines of init as the table of 42 R82 has them: mode, payload byte, settle figure. -/
def initLines : List (Mode × Byte × Nat) :=
  [(.startup, 0x30, 15000), (.startup, 0x30, 4100), (.startup, 0x30, 100), (.startup, 0x20, 4100), (.cmd, 0x28, 100),
   (.cmd, 0x08, 100), (.cmd, 0x01, 100), (.cmd, 0x06, 100)]

/-- The events of init: eight frames with the backlight off, the ninth with the requested one (42 R81, R82). -/
def initEvents (st : Straps) (on : Bool) : List Event :=
  (initLines.flatMap fun l => frameEvents st l.1 false [l.2.1] l.2.2) ++ frameEvents st .cmd on [0x0C] 100

/-- The event puts bytes on the channel or requests a delay. -/
def Event.isFrame : Event → Bool
  | .chanOpen _ => false
  | .bind _ => false
  | .write _ => true
  | .blockWrite _ => true
  | .release => false
  | .delay _ => true

/-- The TransportBytes an event puts on the channel. -/
def Event.bytes : Event → List Byte
  | .chanOpen _ => []
  | .bind _ => []
  | .write b => [b]
  | .blockWrite bs => bs
  | .release => []
  | .delay _ => []

/-- The microseconds an event requests. -/
def Event.micros : Event → Nat
  | .chanOpen _ => 0
  | .bind _ => 0
  | .write _ => 0
  | .blockWrite _ => 0
  | .release => 0
  | .delay n => n

/-! ## What an operation leaves alone -/

/-- The session registers are unchanged. -/
def KeepsSession (s t : State) : Prop :=
  t.session = s.session ∧ t.phase = s.phase ∧ t.path = s.path ∧ t.addr = s.addr

/-- The geometry registers are unchanged. -/
def KeepsGeometry (s t : State) : Prop := t.width = s.width ∧ t.height = s.height

/-- The DisplayState flags are unchanged. -/
def KeepsDisplay (s t : State) : Prop := t.bl = s.bl ∧ t.disp = s.disp ∧ t.cur = s.cur ∧ t.blink = s.blink

/-- What no operation of the engine writes is unchanged: the command latch, the straps, the coming inputs, and every byte
of TEXT. -/
def KeepsHost (s t : State) : Prop :=
  t.cmd = s.cmd ∧ t.straps = s.straps ∧ t.inbox = s.inbox ∧ ∀ a, t.text.read a = s.text.read a

/-- Every byte of LINE and its length are unchanged. -/
def KeepsLine (s t : State) : Prop := t.lineLen = s.lineLen ∧ ∀ a, t.line.read a = s.line.read a

/-- LINE after a command that filled it with `n` bytes: its length. What its bytes are is unspecified (10_state R19). -/
def LineAfter (n : Nat) (t : State) : Prop := t.lineLen.toNat = n

/-- Every byte of STAGE and its length are unchanged. -/
def KeepsStage (s t : State) : Prop := t.stageLen = s.stageLen ∧ ∀ a, t.stage.read a = s.stage.read a

/-- STAGE after frames of which the last has `n` TransportBytes: the raw writer leaves it alone; the block writer leaves its
length (41 R72), and what its bytes are is unspecified (10_state R20). -/
def StageAfter (n : Nat) (s t : State) : Prop :=
  match s.straps.transport with
  | .raw => KeepsStage s t
  | .block => t.stageLen.toNat = n

/-- A command ended without a refusal: the response is the success or the failure, the sticky flag is unchanged and the
sequencer is idle (10_state R16 to R18). -/
def Ended (ok : Bool) (e : Err) (s t : State) : Prop :=
  t.resp = (if ok then Resp.success else Resp.failure e) ∧ t.fault = s.fault ∧ t.seq = .idle

/-- What a wire row leaves alone: everything but the trace, the channel's answers, STAGE and the sequencer. -/
def KeepsAllButFrame (s t : State) : Prop :=
  KeepsSession s t ∧ KeepsGeometry s t ∧ KeepsDisplay s t ∧ KeepsHost s t ∧ KeepsLine s t ∧ t.resp = s.resp ∧
    t.fault = s.fault

/-! ## The host's part -/

/-- A host command, as against a wire row. -/
def IsHost (i : Instr) : Prop := i.format = .host32

/-- The must-be-zero bits of each `OP` (30 R53; the table's masks without the `OP` bits). -/
def mustBeZero : Nat → Nat
  | 0 => 0x0FFF0080
  | 1 => 0x0FFE0000
  | 2 => 0x0FFF0000
  | 3 => 0x0F000000
  | 4 => 0x0FFFFF00
  | 5 => 0x0FFFFFFE
  | 6 => 0x0FFFFFF0
  | _ => 0x0FFFFFFF

/-- A word that is no command (30 R56). -/
def IsIllegal (w : Word) : Prop := 0x80000000 ≤ w.toNat ∨ w.toNat &&& mustBeZero (w.toNat / 2 ^ 28) ≠ 0

/-- The sum of the set-address byte passes 0xFF (42 R86, R80 check 9). -/
def Overflows (s : State) (x y : Int) : Bool := decide (0xFF < targetSum s.width.toNat x y)

/-- A data frame of `n` payload bytes does not fit STAGE (42 R80 check 10). -/
def StageTooSmall (s : State) (n : Nat) : Bool := s.straps.transport == .block && decide (16 < n)

/-- The reason a host command is refused with, if it is: the table of 42 R80 read from its first check down. -/
def refusalOf (s : State) : Instr → Option Reason
  | .openDev _ _ => if s.session = .opened then some .sessionBusy else none
  | .init _ h w =>
    if s.session = .closed then some .noSession
    else if s.phase = .ready then some .alreadyInitialized
    else if 1 ≤ w.toInt ∧ (h.toInt = 1 ∨ h.toInt = 2 ∨ h.toInt = 4) then none
    else some .badGeometry
  | .goto y x =>
    if s.session = .closed then some .noSession
    else if s.phase = .uninitialized then some .notReady
    else if x.toInt < 0 then some .badOperand
    else if Overflows s x.toInt y.toInt then some .addressOverflow
    else none
  | .print len y x =>
    if s.session = .closed then some .noSession
    else if s.phase = .uninitialized then some .notReady
    else if x.toInt < 0 then some .badOperand
    else if len = 0 then some .emptyPayload
    else if Overflows s x.toInt y.toInt then some .addressOverflow
    else if StageTooSmall s (min len.toNat s.width.toNat) then some .stagingOverflow
    else none
  | .clearAll _ =>
    if s.session = .closed then some .noSession else if s.phase = .uninitialized then some .notReady else none
  | .clearRow line =>
    if s.session = .closed then some .noSession
    else if s.phase = .uninitialized then some .notReady
    else if Overflows s 0 (clearRowOf line s) then some .addressOverflow
    else if StageTooSmall s s.width.toNat then some .stagingOverflow
    else none
  | .backlight _ =>
    if s.session = .closed then some .noSession else if s.phase = .uninitialized then some .notReady else none
  | .control _ _ _ _ =>
    if s.session = .closed then some .noSession else if s.phase = .uninitialized then some .notReady else none
  | .close => none
  | .tbyte _ _ _ _ => none
  | .lcdWake => none
  | .lcdMode4 => none
  | .lcdFunctionSet => none
  | .lcdClearDisplay => none
  | .lcdEntryMode => none
  | .lcdDisplayControl _ _ _ => none
  | .lcdBacklightCarrier => none
  | .lcdSetAddress _ => none
  | .lcdData _ => none

/-- What 42 R80 and an operation's own rule say together: refused with the table's reason and nothing changed but the
response and the sticky flag (60 R107), or run to a next state with the property. -/
def RefusedOr (s : State) (i : Instr) (p : State → Prop) : Prop :=
  (∀ r, refusalOf s i = some r → exec i s = .next { s with resp := Resp.refused r, fault := true }) ∧
    (refusalOf s i = none → ∃ t, exec i s = .next t ∧ p t)

/-- Run instructions one after another, stopping at the first that gives no next state. -/
def execAll : List Instr → State → Host.Outcome State Fault Refusal
  | [], s => .next s
  | i :: is, s =>
    match exec i s with
    | .next t => execAll is t
    | .fault f => .fault f
    | .refused r => .refused r

/-- The nine wire rows of init, in the order of 42 R82. -/
def initRows : List Instr :=
  [.lcdWake, .lcdWake, .lcdWake, .lcdMode4, .lcdFunctionSet, .lcdDisplayControl false false false, .lcdClearDisplay,
   .lcdEntryMode, .lcdDisplayControl true false false]

/-! ## The invariant -/

/-- A response word the engine can write (10_state R17): the codes of 60 R102 and R108, each only under its result. -/
def respLegal (q : Resp) : Bool :=
  (q.result == 0 && q.err == 0 && q.reason == 0) || (q.result == 1 && q.err == 0 && q.reason == 0)
    || (q.result == 2 && q.err != 0 && decide (q.err.toNat ≤ 4) && q.reason == 0)
    || (q.result == 3 && q.err == 0 && q.reason != 0 && decide (q.reason.toNat ≤ 10))

/-- Every cell of a buffer lies below its size. -/
def within (size : Nat) (m : Memory) : Bool := m.cells.all fun c => decide (c.1 < size)

/-- The invariant: the macro-state is one of three (10_state R23); a Ready engine has a legal geometry (R13); TEXT is
in canonical form and inside its size (R21); no byte of LINE or STAGE has a value between commands (R19, R20) [log 7]; the
staged length is in range (R20); the sequencer is idle between commands (R16); the response is one the engine can write (R17); a refusal shows in the sticky flag (R18); the control bits have four
places (30 R44). -/
structure StateInv (s : State) : Prop where
  closed_uninitialized : s.session = .closed → s.phase = .uninitialized
  geometry : s.phase = .ready → 1 ≤ s.width.toNat ∧ (s.height = 1 ∨ s.height = 2 ∨ s.height = 4)
  text_wf : s.text.wf = true
  text_in : within 255 s.text = true
  line_given_up : s.line = ⟨[]⟩
  stage_given_up : s.stage = ⟨[]⟩
  stage_len : s.stageLen.toNat ≤ 64
  seq_idle : s.seq = .idle
  resp_legal : respLegal s.resp = true
  refused_sticks : s.resp.result = 3 → s.fault = true
  bits_distinct : s.straps.bits.distinct = true

/-- The three macro-states (10_state R23); the fourth pair never occurs and is counted with Closed. -/
inductive Macro where
  | closed
  | uninitialized
  | ready
  deriving DecidableEq, Repr

/-- The macro-state of a state. -/
def macroOf (s : State) : Macro :=
  match s.session, s.phase with
  | .closed, _ => .closed
  | .opened, .uninitialized => .uninitialized
  | .opened, .ready => .ready

end Sys2Proof.Safety
end

