-- ==== Sys2Proof/Certificates/Slice0/Obligations.lean ====
section
/-! DEFINITION. The statements for the provers. Each docstring names the rules of spec/ a statement formalises. -/

open Sys2Proof Sys2Proof.Machine Sys2Proof.Safety

/-! ## Encoding -/

/-- 30 R52 to R54 and the wire rows' encodings: the decoder gives back every well-formed instruction from its word. A
TransportByte word has its control bits at the default places, whatever the engine's (the model's reading, log 17). -/
def Obligations.DecodeOfEncodeIsTheInstruction : Prop :=
  ∀ i : Instr, i.wf = true → decode i.format (encode i) = .ok i

/-- The other direction: a word that decodes in a format is the word of a well-formed instruction of that format, so no two
words are one instruction and no row takes a neighbour's word (a TransportByte word as the model reads it, log 17). -/
def Obligations.EncodeOfDecodeIsTheWord : Prop :=
  ∀ (f : Format) (w : Word) (i : Instr), decode f w = .ok i → i.wf = true ∧ i.format = f ∧ encode i = w

/-- A word of every host command row (30 R53), and words of the table's wire rows (30 R44, R48, R50, R51). That a
TransportByte word has its control bits at the default places, whatever the engine's, is the model's reading of the table
(log 17). -/
def Obligations.SpecWordsDecodeToTheirCommands : Prop :=
  decode .host32 0x0000013F = .ok (.openDev 1 0x3F) ∧
  decode .host32 0x10010210 = .ok (.init true 2 16) ∧
  decode .host32 0x2000FF02 = .ok (.goto 0xFF 2) ∧
  decode .host32 0x300B0304 = .ok (.print 11 3 4) ∧
  decode .host32 0x400000FF = .ok (.clearAll 0xFF) ∧
  decode .host32 0x40000005 = .ok (.clearRow 5) ∧
  decode .host32 0x50000001 = .ok (.backlight true) ∧
  decode .host32 0x6000000E = .ok (.control true true true false) ∧
  decode .host32 0x70000000 = .ok .close ∧
  decode .tbyte8 0xB5 = .ok (.tbyte true true true 5) ∧
  decode .lcd4 0x03 = .ok .lcdWake ∧
  decode .lcd4 0x02 = .ok .lcdMode4 ∧
  decode .lcd8 0x28 = .ok .lcdFunctionSet ∧
  decode .lcd8 0x0E = .ok (.lcdDisplayControl true true false) ∧
  decode .lcd8 0xC5 = .ok (.lcdSetAddress 0x45) ∧
  decode .lcd8data 0x54 = .ok (.lcdData 0x54)

/-- 30 R56: a word that is no command is refused with `IllegalCommand`, and nothing but the response and the sticky flag
changes (the latch holds the refused word, 60 R107); every other word is a command. -/
def Obligations.IllegalWordIsRefusedAndNothingElse : Prop :=
  ∀ w : Word,
    (IsIllegal w → ∀ (s : State) (rest : List Input), s.inbox = .word .host32 w :: rest →
      step s = .next { s with inbox := rest, cmd := w, resp := Resp.refused .illegalCommand, fault := true }) ∧
    (¬ IsIllegal w → ∃ i, decode .host32 w = .ok i)

/-- The model's own entry (log 9, 16): a host command placed in any state is the next to run, in that state with the command
latched. -/
def Obligations.PlacedCommandIsTheNextToRun : Prop :=
  ∀ (i : Instr) (s : State), i.wf = true → i.format = .host32 →
    decodeTableWord 32 (encode i).toNat = some i ∧
      step (s.withFetchWord 32 (encode i).toNat) = exec i { s with cmd := encode i }

/-! ## Operands -/

/-- 42 R85. The function has no height to consult. -/
def Obligations.RowBaseOfEveryRow : Prop :=
  ∀ (width : Nat) (y : Int),
    rowBase width 0 = 0x80 ∧ rowBase width 1 = 0xC0 ∧ rowBase width 2 = 0x80 + width ∧ rowBase width 3 = 0xC0 + width ∧
      (y < 0 ∨ 3 < y → rowBase width y = 0x80)

/-- 42 R86, the address: base plus the column clamped to the width itself; every column from the width on gives one
address. -/
def Obligations.ColumnIsClampedToTheWidth : Prop :=
  ∀ (width : Nat) (x y : Int), 0 ≤ x →
    (targetSum width x y : Int) = rowBase width y + min x width ∧
      (width ≤ x → targetSum width x y = targetSum width width y)

/-- 95_test_vectors.md V37: up to width 31 every set-address sum is in 0x80 .. 0xFE. -/
def Obligations.SetAddressSumFitsUpToWidth31 : Prop :=
  ∀ (width : Nat) (x y : Int), width ≤ 31 → 0x80 ≤ targetSum width x y ∧ targetSum width x y ≤ 0xFE

/-- 30 R50. -/
def Obligations.ControlByteHasItsThreeBits : Prop :=
  ∀ d c k : Bool,
    (controlByte d c k).toNat = 0x08 + d.toNat * 4 + c.toNat * 2 + k.toNat ∧
      (controlByte d c k).getLsbD 3 = true ∧ (controlByte d c k).getLsbD 2 = d ∧ (controlByte d c k).getLsbD 1 = c ∧
      (controlByte d c k).getLsbD 0 = k ∧ (controlByte d c k).extractLsb' 4 4 = 0

/-- 30 R55: where the fields of the response word stand. 60 R102 and R108: the codes. -/
def Obligations.ResponseWordHasItsFields : Prop :=
  (∀ q : Resp, q.word.toNat = q.reason.toNat * 32 + q.err.toNat * 4 + q.result.toNat) ∧
  Resp.success.word = 0x001 ∧
  (Resp.failure .channelOpen).word = 0x006 ∧ (Resp.failure .addressBind).word = 0x00A ∧
  (Resp.failure .transportWrite).word = 0x00E ∧ (Resp.failure .initSequenceIncomplete).word = 0x012 ∧
  (Resp.refused .illegalCommand).word = 0x023 ∧ (Resp.refused .noSession).word = 0x043 ∧
  (Resp.refused .sessionBusy).word = 0x063 ∧ (Resp.refused .notReady).word = 0x083 ∧
  (Resp.refused .alreadyInitialized).word = 0x0A3 ∧ (Resp.refused .badGeometry).word = 0x0C3 ∧
  (Resp.refused .badOperand).word = 0x0E3 ∧ (Resp.refused .emptyPayload).word = 0x103 ∧
  (Resp.refused .addressOverflow).word = 0x123 ∧ (Resp.refused .stagingOverflow).word = 0x143

/-! ## Bit Packer -/

/-- 40 R61: the packed byte is the sum of its fields at their places, since the fields never overlap; `n` is masked. -/
def Obligations.PackIsTheSumOfItsFields : Prop :=
  ∀ (c : ControlBits) (rs bl en : Bool) (n : Nat), c.distinct = true →
    (pack c rs bl n en).toNat =
      rs.toNat * 2 ^ c.rs.num + Config.rwWrite.toNat * 2 ^ c.rw.num + en.toNat * 2 ^ c.en.num + bl.toNat * 2 ^ c.bl.num + n % 16

/-- 40 R63: each field of the packed byte is what the caller supplied, whatever the strobe. -/
def Obligations.PackKeepsItsFields : Prop :=
  ∀ (c : ControlBits) (rs bl en : Bool) (n : Nat), c.distinct = true → n < 16 →
    ((pack c rs bl n en).extractLsb' 0 4).toNat = n ∧ (pack c rs bl n en).getLsbD c.rs.num = rs ∧
      (pack c rs bl n en).getLsbD c.bl.num = bl ∧ (pack c rs bl n en).getLsbD c.en.num = en ∧
      (pack c rs bl n en).getLsbD c.rw.num = Config.rwWrite

/-- 40 R62: strobe 1 first, then strobe 0, and the two bytes differ in the strobe's bit only. -/
def Obligations.PairDiffersInTheStrobeOnly : Prop :=
  ∀ (c : ControlBits) (rs bl : Bool) (n : Nat), c.distinct = true →
    ∃ high low : Byte, pair c rs bl n = [high, low] ∧ high = pack c rs bl n true ∧ low = pack c rs bl n false ∧
      high ^^^ low = 1#8 <<< c.en.num

/-- 40 R64. -/
def Obligations.NibblesMakeTheByte : Prop :=
  ∀ b : Byte, (hiNibble b).toNat = b.toNat / 16 ∧ (loNibble b).toNat = b.toNat % 16 ∧ b = hiNibble b ++ loNibble b

/-! ## Frame Transport -/

/-- 41 R66 (95_test_vectors.md V32): a frame's length, and the payload read back from a full frame. -/
def Obligations.FrameHasItsLengthAndCarriesItsPayload : Prop :=
  ∀ (c : ControlBits) (mode : Mode) (bl : Bool) (payload : List Byte),
    (expand c mode bl payload).length = (if mode = .startup then 2 else 4 * payload.length) ∧
      (mode ≠ .startup → ∀ i, i < payload.length →
        payload[i]? = some (((expand c mode bl payload).getD (4 * i) 0 &&& 0x0F) <<< 4
          ||| ((expand c mode bl payload).getD (4 * i + 2) 0 &&& 0x0F)))

/-- 30 R45, 20 R30: within a frame register-select, backlight and read/write never change, and the strobe goes 1, 0,
1, 0 from its first byte on. -/
def Obligations.FrameChangesOnlyStrobeAndNibble : Prop :=
  ∀ (c : ControlBits) (mode : Mode) (bl : Bool) (payload : List Byte) (k : Nat) (b : Byte), c.distinct = true →
    (expand c mode bl payload)[k]? = some b →
      b.getLsbD c.rs.num = decide (mode = .data) ∧ b.getLsbD c.bl.num = bl ∧ b.getLsbD c.rw.num = false ∧
        b.getLsbD c.en.num = decide (k % 2 = 0)

/-- 10_state R16: the sequencer's place for the `k`-th byte of a full frame; the strobe moves first, then the nibble, then
the payload index. -/
def Obligations.FramePositionsAdvanceInOrder : Prop :=
  ∀ (c : ControlBits) (mode : Mode) (bl : Bool) (payload : List Byte) (k : Nat) (sl : Slot), mode ≠ .startup →
    (frameSlots c mode bl payload)[k]? = some sl →
      sl.byte = k / 4 ∧ sl.nib = (if k % 4 < 2 then .hi else .lo) ∧ sl.en = decide (k % 2 = 0)

/-- 41 R68, R69, R70: every byte of the frame is attempted once, in order, and one delay follows; the answer is true
exactly when every write was answered true. -/
def Obligations.RawSendAttemptsEveryWrite : Prop :=
  ∀ (mode : Mode) (bl : Bool) (payload : List Byte) (settle : Nat) (s : State),
    (rawSend mode bl payload settle s).2.trace =
        s.trace ++ (frameBytes s.straps.bits mode bl payload).map .write
          ++ [.delay (if settle = 0 then s.straps.tDefaultUs else settle)] ∧
      ((rawSend mode bl payload settle s).1 = true ↔
        ∀ k, k < (frameBytes s.straps.bits mode bl payload).length → boolAt s k = true)

/-- 41 R72, R73, R74, R75: the frame is staged from the start of STAGE and goes out in one or two block writes of at most
32 bytes with no delay between them, and both delays follow; the answer is true exactly when every call returned 0. -/
def Obligations.BlockSendStagesAndChunks : Prop :=
  ∀ (mode : Mode) (bl : Bool) (payload : List Byte) (settle : Nat) (s : State),
    (frameBytes s.straps.bits mode bl payload).length ≤ 64 →
    (blockSend mode bl payload settle s).2.trace =
        s.trace ++ (if (frameBytes s.straps.bits mode bl payload).length ≤ 32
            then [.blockWrite (frameBytes s.straps.bits mode bl payload)]
            else [.blockWrite ((frameBytes s.straps.bits mode bl payload).take 32),
              .blockWrite ((frameBytes s.straps.bits mode bl payload).drop 32)])
          ++ [.delay settle, .delay s.straps.tDefaultUs] ∧
      ((blockSend mode bl payload settle s).1 = true ↔
        ∀ k, k < (if (frameBytes s.straps.bits mode bl payload).length ≤ 32 then 1 else 2) → codeAt s k = 0) ∧
      (blockSend mode bl payload settle s).2.stageLen.toNat = (frameBytes s.straps.bits mode bl payload).length ∧
      ∀ k, k < (frameBytes s.straps.bits mode bl payload).length →
        (stageFrame (frameSlots s.straps.bits mode bl payload) s).stage.read k
          = (frameBytes s.straps.bits mode bl payload)[k]?

/-- 41 R71, R76 and 30 R47: a startup frame is the high nibble of the first byte, two writes or one block write of two
staged bytes, and later bytes and the low nibble are never looked at; it succeeds when both writes, or the one block write,
are answered good. -/
def Obligations.StartupFrameIsOneNibble : Prop :=
  ∀ (bl : Bool) (b : Byte) (rest : List Byte) (settle : Nat) (s : State),
    (s.straps.transport = .raw → (send .startup bl (b :: rest) settle s).2.trace = s.trace ++
      [.write (pack s.straps.bits false bl (b.toNat / 16) true), .write (pack s.straps.bits false bl (b.toNat / 16) false),
       .delay (if settle = 0 then s.straps.tDefaultUs else settle)] ∧
      ((send .startup bl (b :: rest) settle s).1 = true ↔ boolAt s 0 = true ∧ boolAt s 1 = true)) ∧
    (s.straps.transport = .block → (send .startup bl (b :: rest) settle s).2.trace = s.trace ++
      [.blockWrite [pack s.straps.bits false bl (b.toNat / 16) true, pack s.straps.bits false bl (b.toNat / 16) false],
       .delay settle, .delay s.straps.tDefaultUs] ∧
      ((send .startup bl (b :: rest) settle s).1 = true ↔ codeAt s 0 = 0) ∧
      (send .startup bl (b :: rest) settle s).2.stageLen = 2 ∧
      (stageFrame (frameSlots s.straps.bits .startup bl (b :: rest)) s).stage.readFrom 0 2
        = some [pack s.straps.bits false bl (b.toNat / 16) true, pack s.straps.bits false bl (b.toNat / 16) false])

/-- 95_test_vectors.md V33: two engines that differ in the sender put the same bytes on the channel for the same send. -/
def Obligations.RawAndBlockSendTheSameBytes : Prop :=
  ∀ (mode : Mode) (bl : Bool) (payload : List Byte) (settle : Nat) (r b : State),
    r.straps.transport = .raw → b.straps.transport = .block → r.straps.bits = b.straps.bits →
      ∃ evr evb : List Event, (send mode bl payload settle r).2.trace = r.trace ++ evr ∧
        (send mode bl payload settle b).2.trace = b.trace ++ evb ∧
        evr.flatMap Event.bytes = evb.flatMap Event.bytes ∧
        evr.flatMap Event.bytes = frameBytes r.straps.bits mode bl payload

/-! ## Device Session -/

/-- 43 R96, R97, 60 R103, R104: open, its three outcomes, and its frame. -/
def Obligations.OpenBindsOrReportsTheFailedStep : Prop :=
  ∀ (path : BitVec 8) (address : BitVec 7) (s : State), RefusedOr s (.openDev path address) fun t =>
    t.trace = s.trace ++ (if boolAt s 0 then
        (if boolAt s 1 then [.chanOpen path, .bind address] else [.chanOpen path, .bind address, .release])
      else [.chanOpen path]) ∧
    t.resp = (if boolAt s 0 then (if boolAt s 1 then Resp.success else Resp.failure .addressBind)
      else Resp.failure .channelOpen) ∧
    (if boolAt s 0 && boolAt s 1 then
        t.session = .opened ∧ t.phase = .uninitialized ∧ t.path = path ∧ t.addr = address
      else KeepsSession s t) ∧
    t.fault = s.fault ∧ t.seq = .idle ∧
    KeepsGeometry s t ∧ KeepsDisplay s t ∧ KeepsHost s t ∧ KeepsLine s t ∧ KeepsStage s t

/-- 43 R98: close, with a session and without one, and its frame. It always answers success. -/
def Obligations.CloseReleasesAndNeverFails : Prop :=
  ∀ s : State,
    (s.session = .closed → exec .close s = .next { s with resp := Resp.success, seq := .idle }) ∧
    (s.session = .opened → ∃ t, exec .close s = .next t ∧
      t.trace = s.trace ++ frameEvents s.straps .cmd false [0x00] 0 ++ [.release] ∧
      t.resp = Resp.success ∧ t.fault = s.fault ∧ t.seq = .idle ∧
      t.session = .closed ∧ t.phase = .uninitialized ∧ t.path = s.path ∧ t.addr = s.addr ∧
      t.bl = false ∧ t.disp = s.disp ∧ t.cur = s.cur ∧ t.blink = s.blink ∧
      KeepsGeometry s t ∧ KeepsHost s t ∧ KeepsLine s t ∧ StageAfter 4 s t)

/-! ## Protocol Engine -/

/-- 42 R81 to R84: init runs all nine sends whatever they answer, is Ready exactly when all nine succeed (28 writes, or
9 block writes, answered good), and leaves geometry and DisplayState as R84 says in both cases; and its frame. -/
def Obligations.InitRunsNineSendsAndCountsThem : Prop :=
  ∀ (on : Bool) (height width : BitVec 8) (s : State), RefusedOr s (.init on height width) fun t =>
    t.trace = s.trace ++ initEvents s.straps on ∧
    Ended (initGood s) .initSequenceIncomplete s t ∧
    t.phase = (if initGood s then .ready else .uninitialized) ∧
    (t.width.toNat : Int) = width.toInt ∧ (t.height.toNat : Int) = height.toInt ∧
    t.bl = on ∧ t.disp = true ∧ t.cur = false ∧ t.blink = false ∧
    t.session = s.session ∧ t.path = s.path ∧ t.addr = s.addr ∧
    KeepsHost s t ∧ KeepsLine s t ∧ StageAfter 4 s t

/-- The nine wire rows of init, run one after another from the sequencer's place at init's first send with the INIT word
latched, make init's events and end idle. The events are those of 42 R82; that a row runs by itself, and what it then does,
is the model's choice (log 11, 12). -/
def Obligations.NineWireRowsMakeTheEventsOfInit : Prop :=
  ∀ (s : State), s.session = .opened → s.seq = Seq.start .init →
    ∃ t, execAll initRows s = .next t ∧ t.trace = s.trace ++ initEvents s.straps (s.cmd.getLsbD 16) ∧ t.seq = .idle ∧
      KeepsAllButFrame s t

/-- 42 R87, R95, 60 R105: goto, and its frame. -/
def Obligations.GotoSendsTheSetAddressByte : Prop :=
  ∀ (y x : BitVec 8) (s : State), RefusedOr s (.goto y x) fun t =>
    t.trace = s.trace ++ frameEvents s.straps .cmd s.bl [BitVec.ofNat 8 (targetSum s.width.toNat x.toInt y.toInt)] 0 ∧
    Ended (frameGood s 0 0 4) .transportWrite s t ∧
    KeepsSession s t ∧ KeepsGeometry s t ∧ KeepsDisplay s t ∧ KeepsHost s t ∧ KeepsLine s t ∧
    StageAfter 4 s t

/-- 42 R88: print sends the first `min(len, width)` bytes of TEXT, unchanged, after the positioning frame if that succeeds;
and its frame. The bytes of TEXT it reads have been written, and the width is one init accepts (10_state R13). -/
def Obligations.PrintSendsTheFirstWidthCharacters : Prop :=
  ∀ (len y x : BitVec 8) (s : State) (n : Nat) (text : List Byte), n = min len.toNat s.width.toNat →
    (refusalOf s (.print len y x) = none → 1 ≤ s.width.toNat ∧ text.length = n ∧ ∀ k, k < n → s.text.read k = text[k]?) →
    RefusedOr s (.print len y x) fun t =>
      t.trace = s.trace
        ++ frameEvents s.straps .cmd s.bl [BitVec.ofNat 8 (targetSum s.width.toNat x.toInt y.toInt)] 0
        ++ (if frameGood s 0 0 4 then frameEvents s.straps .data s.bl text 0 else []) ∧
      Ended (frameGood s 0 0 4 && frameGood s 4 1 (4 * n)) .transportWrite s t ∧
      LineAfter n t ∧ StageAfter (if frameGood s 0 0 4 then 4 * n else 4) s t ∧
      KeepsSession s t ∧ KeepsGeometry s t ∧ KeepsDisplay s t ∧ KeepsHost s t

/-- 10_state R24 as the model takes it (log 6): an admitted print that would read a byte of TEXT nothing has written
stops. -/
def Obligations.PrintStopsOnTextNothingHasWritten : Prop :=
  ∀ (len y x : BitVec 8) (s : State) (k : Nat), refusalOf s (.print len y x) = none →
    k < min len.toNat s.width.toNat → s.text.read k = none → exec (.print len y x) s = .fault .textUnspecified

/-- 42 R89: clear of the whole display, the same for every negative line; and its frame. -/
def Obligations.ClearAllSendsOneByteWithTheLongSettle : Prop :=
  ∀ (line : BitVec 8) (s : State), RefusedOr s (.clearAll line) fun t =>
    t.trace = s.trace ++ frameEvents s.straps .cmd s.bl [0x01] 2000 ∧
    Ended (frameGood s 0 0 4) .transportWrite s t ∧
    KeepsSession s t ∧ KeepsGeometry s t ∧ KeepsDisplay s t ∧ KeepsHost s t ∧ KeepsLine s t ∧
    StageAfter 4 s t

/-- 42 R90: clear of one row sends `width` spaces to column 0 of the row, clamped to the last one, after the positioning
frame if that succeeds; and its frame. The geometry is one init accepts (10_state R13). -/
def Obligations.ClearRowSendsWidthSpaces : Prop :=
  ∀ (line : BitVec 8) (s : State) (row : Int), line.msb = false → 1 ≤ s.width.toNat →
    row = (if (s.height.toNat : Int) ≤ line.toInt then (s.height.toNat : Int) - 1 else line.toInt) →
    RefusedOr s (.clearRow line) fun t =>
      t.trace = s.trace ++ frameEvents s.straps .cmd s.bl [BitVec.ofNat 8 (rowBase s.width.toNat row)] 0
        ++ (if frameGood s 0 0 4 then frameEvents s.straps .data s.bl (List.replicate s.width.toNat 0x20) 0 else []) ∧
      Ended (frameGood s 0 0 4 && frameGood s 4 1 (4 * s.width.toNat)) .transportWrite s t ∧
      LineAfter s.width.toNat t ∧ StageAfter (if frameGood s 0 0 4 then 4 * s.width.toNat else 4) s t ∧
      KeepsSession s t ∧ KeepsGeometry s t ∧ KeepsDisplay s t ∧ KeepsHost s t

/-- 42 R91, R94: set_backlight writes the flag, whatever the frame answers, and sends value 0 with the new backlight; and
its frame. -/
def Obligations.BacklightIsWrittenAndCarriedByItsFrame : Prop :=
  ∀ (on : Bool) (s : State), RefusedOr s (.backlight on) fun t =>
    t.trace = s.trace ++ frameEvents s.straps .cmd on [0x00] 0 ∧
    Ended (frameGood s 0 0 4) .transportWrite s t ∧
    t.bl = on ∧ t.disp = s.disp ∧ t.cur = s.cur ∧ t.blink = s.blink ∧
    KeepsSession s t ∧ KeepsGeometry s t ∧ KeepsHost s t ∧ KeepsLine s t ∧
    StageAfter 4 s t

/-- 42 R92, R94: set_control writes the four flags, whatever the frame answers, and sends the display-control byte with the
new backlight; and its frame. -/
def Obligations.ControlIsWrittenAndCarriedByItsFrame : Prop :=
  ∀ (bl disp cur blink : Bool) (s : State), RefusedOr s (.control bl disp cur blink) fun t =>
    t.trace = s.trace ++ frameEvents s.straps .cmd bl
      [BitVec.ofNat 8 (0x08 + disp.toNat * 4 + cur.toNat * 2 + blink.toNat)] 0 ∧
    Ended (frameGood s 0 0 4) .transportWrite s t ∧
    t.bl = bl ∧ t.disp = disp ∧ t.cur = cur ∧ t.blink = blink ∧
    KeepsSession s t ∧ KeepsGeometry s t ∧ KeepsHost s t ∧ KeepsLine s t ∧
    StageAfter 4 s t

/-! ## Admission -/

/-- 42 R80, 60 R107: a host command ends refused exactly when a check of the table fails, with the reason of the first that
fails, and then nothing but the response and the sticky flag changes. -/
def Obligations.RefusalFollowsTheAdmissionTable : Prop :=
  ∀ (i : Instr) (s : State), IsHost i →
    (∀ r, refusalOf s i = some r → exec i s = .next { s with resp := ⟨3, 0, r.code⟩, fault := true }) ∧
    (refusalOf s i = none → ∀ t, exec i s = .next t → t.resp.result ≠ 3 ∧ t.fault = s.fault)

/-- 60 R115: what each macro-state refuses, and with which reason. -/
def Obligations.MacroStatesRefuseTheirOperations : Prop :=
  ∀ (i : Instr) (s : State), IsHost i → i ≠ .close →
    (macroOf s = .closed → (∀ p a, i ≠ .openDev p a) → exec i s = .next (raiseRefused .noSession s)) ∧
    (macroOf s = .uninitialized → (∀ on h w, i ≠ .init on h w) →
      exec i s = .next (raiseRefused (match i with | .openDev _ _ => .sessionBusy | _ => .notReady) s)) ∧
    (macroOf s = .ready → (∀ p a, i = .openDev p a → exec i s = .next (raiseRefused .sessionBusy s)) ∧
      (∀ on h w, i = .init on h w → exec i s = .next (raiseRefused .alreadyInitialized s)))

/-! ## Wire rows -/

/-- THE MODEL'S CHOICE (log 11, 14): TBYTE, run by itself, packs its byte (40 R61) and hands it to the channel (20 R26) with
no delay; and its frame. The spec has no step that runs a wire row by itself. -/
def Obligations.TbyteHandsOneByteToTheChannel : Prop :=
  ∀ (rs en bl : Bool) (n : BitVec 4) (s : State), s.session = .opened →
    ∃ t, exec (.tbyte rs en bl n) s = .next t ∧
      t.trace = s.trace ++ (match s.straps.transport with
        | .raw => [.write (pack s.straps.bits rs bl n.toNat en)]
        | .block => [.blockWrite [pack s.straps.bits rs bl n.toNat en]]) ∧
      t.seq = s.seq ∧ KeepsAllButFrame s t ∧ StageAfter 1 s t

/-- THE MODEL'S CHOICE (log 11, 12, 13): a wake-up row, run by itself outside init, is a startup frame of nibble 0x3 with the
backlight off and one of the three settle figures; and its frame. The nibble and the figures are those of 42 R82 steps 1 to
3 and the form of the frame that of 41 R71; the spec sends this frame inside init only. -/
def Obligations.WakeRowSendsTheWakeUpNibble : Prop :=
  ∀ s : State, s.session = .opened → s.seq = .idle →
    ∃ t settle, settle ∈ [15000, 4100, 100] ∧ exec .lcdWake s = .next t ∧
      t.trace = s.trace ++ frameEvents s.straps .startup false [0x30] settle ∧
      t.seq = .idle ∧ KeepsAllButFrame s t ∧ StageAfter 2 s t

/-- THE MODEL'S CHOICE (log 11, 12): a row that only init sends, run by itself wherever the sequencer stands, makes the frame
of its init step with the backlight off; and its frame. The bytes and figures are those of 42 R82 steps 4, 5, 8; the spec
sends these frames inside init only. -/
def Obligations.InitOnlyRowsSendTheirStep : Prop :=
  ∀ (s : State) (row : Instr) (mode : Mode) (b : Byte) (settle : Nat), s.session = .opened →
    (row, mode, b, settle) ∈ [(Instr.lcdMode4, Mode.startup, (0x20 : Byte), 4100), (.lcdFunctionSet, .cmd, 0x28, 100),
      (.lcdEntryMode, .cmd, 0x06, 100)] →
    ∃ t, exec row s = .next t ∧ t.trace = s.trace ++ frameEvents s.straps mode false [b] settle ∧
      t.seq = s.seq.nextSend ∧ KeepsAllButFrame s t ∧ StageAfter (if mode = .startup then 2 else 4) s t

/-- THE MODEL'S CHOICE (log 11, 12, 15): each of the other rows, run by itself outside init, sends its byte with the backlight
that stands and a settle figure of 2000 for the clear and 0 for the rest; and its frame. The spec's operations send such
frames with these figures (42 R89, R93); it gives no meaning to a row alone. -/
def Obligations.OtherRowsSendTheirByteOutsideInit : Prop :=
  ∀ (s : State) (row : Instr) (mode : Mode) (b : Byte) (settle : Nat) (d c k : Bool) (offset : BitVec 7) (code : BitVec 8),
    s.session = .opened → s.seq = .idle →
    (row, mode, b, settle) ∈ [(Instr.lcdClearDisplay, Mode.cmd, (0x01 : Byte), 2000),
      (.lcdDisplayControl d c k, .cmd, BitVec.ofNat 8 (0x08 + d.toNat * 4 + c.toNat * 2 + k.toNat), 0),
      (.lcdBacklightCarrier, .cmd, 0x00, 0), (.lcdSetAddress offset, .cmd, BitVec.ofNat 8 (0x80 + offset.toNat), 0),
      (.lcdData code, .data, code, 0)] →
    ∃ t, exec row s = .next t ∧ t.trace = s.trace ++ frameEvents s.straps mode s.bl [b] settle ∧
      t.seq = .idle ∧ KeepsAllButFrame s t ∧ StageAfter 4 s t

/-- THE MODEL'S CHOICE (log 11, 12): a row run by itself with the sequencer at a step of init that sends it has that step's
settle figure, and the backlight off but for step 9, where it is the one the latched INIT word asks for; and its frame. The
steps are those of 42 R82; the spec runs them inside INIT only. -/
def Obligations.RowsInsideInitSendTheStepTheSequencerStandsAt : Prop :=
  ∀ (s : State) (k byte : Nat) (nib : Nib) (en : Bool) (row : Instr) (mode : Mode) (b : Byte) (settle : Nat),
    s.session = .opened → s.seq = .running .init k byte nib en →
    (k, row, mode, b, settle) ∈ [(1, Instr.lcdWake, Mode.startup, (0x30 : Byte), 15000), (2, .lcdWake, .startup, 0x30, 4100),
      (3, .lcdWake, .startup, 0x30, 100), (4, .lcdMode4, .startup, 0x20, 4100), (5, .lcdFunctionSet, .cmd, 0x28, 100),
      (6, .lcdDisplayControl false false false, .cmd, 0x08, 100), (7, .lcdClearDisplay, .cmd, 0x01, 100),
      (8, .lcdEntryMode, .cmd, 0x06, 100), (9, .lcdDisplayControl true false false, .cmd, 0x0C, 100)] →
    ∃ t, exec row s = .next t ∧
      t.trace = s.trace ++ frameEvents s.straps mode (decide (k = 9) && s.cmd.getLsbD 16) [b] settle ∧
      t.seq = (if k = 9 then .idle else .running .init (k + 1) 0 .hi true) ∧ KeepsAllButFrame s t ∧
      StageAfter (if mode = .startup then 2 else 4) s t

/-- THE MODEL'S CHOICE (log 11): a wire row stops by the name wireNoSession while no session is open. The spec runs no wire
row by itself and names no such stop; the model draws it from 20 R26, by which the channel is written only while one is
open. -/
def Obligations.WireRowsNeedAnOpenSession : Prop :=
  ∀ (i : Instr) (s : State), ¬ IsHost i → s.session = .closed → exec i s = .refused .wireNoSession

/-! ## Steps -/

/-- A step runs the instruction that the next word is, in the state with that word taken and, for a host command, latched
(30 R52). That one command is one step is log 8, that words stand in a queue is log 9, and that a wire word is an instruction
a step runs is the model's choice (log 11): the spec has no such step. -/
def Obligations.StepRunsTheDecodedInstruction : Prop :=
  ∀ (s : State) (f : Format) (w : Word) (rest : List Input) (i : Instr), s.inbox = .word f w :: rest →
    decode f w = .ok i →
      step s = exec i (if f = .host32 then { s with inbox := rest, cmd := w } else { s with inbox := rest })

/-- With no input the engine is idle and holds its state (60 R121); the host writes one byte of TEXT, addresses 0 to 254,
which then reads back with every other byte as before (10_state R21). That these are steps taken from a queue is the model's
choice (log 9), and so is the fault textAddress on a write at 255 or above (log 20): R21 gives no such stop. -/
def Obligations.StepTakesTheHostsActions : Prop :=
  ∀ (s : State) (a : Nat) (b : Byte) (rest : List Input),
    (s.inbox = [] → step s = .next s) ∧
    (s.inbox = .text a b :: rest → a < 255 → ∃ t, step s = .next t ∧
      t = { s with inbox := rest, text := t.text } ∧ t.text.read a = some b ∧ ∀ x, x ≠ a → t.text.read x = s.text.read x) ∧
    (s.inbox = .text a b :: rest → 255 ≤ a → step s = .fault .textAddress)

/-- 70 R122, R123: reset leaves the engine Closed and idle with no response and no refusal, appends nothing to the trace,
and is done in one step. What the fields hold that R24 leaves unspecified is the model's choice (log 5, 6) and is not
stated. -/
def Obligations.ResetPulseClosesTheEngine : Prop :=
  ∀ (s : State) (rest : List Input), s.inbox = .resetPulse :: rest → ∃ t, step s = .next t ∧
    t.session = .closed ∧ t.phase = .uninitialized ∧ t.seq = .idle ∧ t.resp = ⟨0, 0, 0⟩ ∧ t.fault = false ∧
    t.trace = s.trace ∧ t.straps = s.straps ∧ t.inbox = rest

/-- 10_state R24: what the state after reset holds where R24 gives a value. -/
def Obligations.ResetHoldsTheStatedValues : Prop :=
  State.reset.session = .closed ∧ State.reset.phase = .uninitialized ∧ State.reset.seq = .idle ∧
    State.reset.resp = ⟨0, 0, 0⟩ ∧ State.reset.fault = false ∧ State.reset.trace = [] ∧ macroOf State.reset = .closed

/-! ## The whole machine -/

/-- Every step keeps the invariant, from every state that meets it. -/
def Obligations.StepKeepsTheInvariant : Prop := ∀ s t : State, StateInv s → step s = .next t → StateInv t

/-- The state after reset meets the invariant. -/
def Obligations.ResetMeetsTheInvariant : Prop := StateInv State.reset

/-- 42 R79, 10_state R23: the macro-state changes only by a successful open from Closed, a successful init from
Uninitialized, a close, or reset. -/
def Obligations.MacroStateMovesOnlyAsTheRulesSay : Prop :=
  ∀ s t : State, step s = .next t → macroOf t ≠ macroOf s →
    (macroOf t = .closed ∧ ∃ rest, s.inbox = .resetPulse :: rest) ∨
    ∃ w rest i, s.inbox = .word .host32 w :: rest ∧ decode .host32 w = .ok i ∧ t.resp = Resp.success ∧
      ((macroOf s = .closed ∧ macroOf t = .uninitialized ∧ ∃ p a, i = .openDev p a) ∨
       (macroOf s = .uninitialized ∧ macroOf t = .ready ∧ ∃ on h w', i = .init on h w') ∨
       (macroOf s ≠ .closed ∧ macroOf t = .closed ∧ i = .close))

/-- 10_state R18: the sticky flag is set by a refused command and by nothing else, and cleared by nothing but reset. -/
def Obligations.StickyFlagRecordsEveryRefusal : Prop :=
  (∀ (i : Instr) (s t : State), IsHost i → exec i s = .next t → t.fault = (s.fault || t.resp.result == 3)) ∧
  ∀ s t : State, step s = .next t →
    (s.fault = true → t.fault = false → ∃ rest, s.inbox = .resetPulse :: rest) ∧
    (s.fault = false → t.fault = true → t.resp.result = 3 ∧ ∃ w rest, s.inbox = .word .host32 w :: rest)

/-- 20 R26, 95_test_vectors.md V35: in Closed no physical write, block write or delay is ever appended. -/
def Obligations.ClosedEngineWritesNothing : Prop :=
  ∀ s t : State, s.session = .closed → step s = .next t →
    ∃ ev, t.trace = s.trace ++ ev ∧ ∀ e ∈ ev, Event.isFrame e = false

/-- 00_scope R8: the trace is appended to and never read. From any other trace the same step does the same and appends the
same events. -/
def Obligations.TraceIsAppendedToAndNeverRead : Prop :=
  ∀ (s t : State) (old : List Event), step s = .next t →
    ∃ ev, t.trace = s.trace ++ ev ∧ step { s with trace := old } = .next { t with trace := old ++ ev }

/-- 20 R27: whether the engine has a next step never depends on the channel's answers. -/
def Obligations.NextStepNeverDependsOnTheAnswers : Prop :=
  ∀ (s : State) (bs : List Bool) (cs : List Nat) (k : Nat),
    (∃ t, step s = .next t) ↔ ∃ t, step { s with boolAnswers := bs, codeAnswers := cs, freeIdx := k } = .next t

/-- 10_state R21, R15, 00_scope R6, 70 R125: no instruction writes TEXT, the command latch, the straps or the host's coming
actions. -/
def Obligations.NoInstructionWritesTheHostsState : Prop :=
  ∀ (i : Instr) (s t : State), exec i s = .next t → KeepsHost s t

/-- The column "written by" of 10_state R9: which operations write each register. -/
def Obligations.RegistersAreWrittenByTheirOperationsOnly : Prop :=
  ∀ (i : Instr) (s t : State), exec i s = .next t →
    (t.session ≠ s.session → (∃ p a, i = .openDev p a) ∨ i = .close) ∧
    (t.phase ≠ s.phase → (∃ p a, i = .openDev p a) ∨ (∃ on h w, i = .init on h w) ∨ i = .close) ∧
    (¬ (t.path = s.path ∧ t.addr = s.addr) → ∃ p a, i = .openDev p a) ∧
    (¬ KeepsGeometry s t → ∃ on h w, i = .init on h w) ∧
    (t.bl ≠ s.bl → (∃ on h w, i = .init on h w) ∨ (∃ on, i = .backlight on) ∨ (∃ b d c k, i = .control b d c k) ∨
      i = .close) ∧
    (¬ (t.disp = s.disp ∧ t.cur = s.cur ∧ t.blink = s.blink) →
      (∃ on h w, i = .init on h w) ∨ ∃ b d c k, i = .control b d c k) ∧
    (¬ KeepsLine s t → (∃ len y x, i = .print len y x) ∨ ∃ line, i = .clearRow line) ∧
    (¬ KeepsStage s t → s.straps.transport = .block) ∧
    (t.resp ≠ s.resp → IsHost i)

/-- 95_test_vectors.md V36: if the channel answers good, no command ends in failure. No command asks for more than 512
answers or 9 codes. -/
def Obligations.GoodAnswersNeverEndInFailure : Prop :=
  ∀ (i : Instr) (s t : State), IsHost i → (∀ k, k < 512 → boolAt s k = true) → (∀ k, k < 9 → codeAt s k = 0) →
    exec i s = .next t → t.resp.result ≠ 2

/-- 70 R135, R136: the microseconds each command requests. The sum for init is that of the figures of R82 and R135, 23800 (R136
and R82 add them up to 23700: log 26). -/
def Obligations.CommandsRequestTheirDelays : Prop :=
  ∀ (s t : State) (i : Instr) (d : Nat), IsHost i → exec i s = .next t → d = s.straps.tDefaultUs →
    ∃ ev, t.trace = s.trace ++ ev ∧
      (refusalOf s i ≠ none → ev = []) ∧
      (refusalOf s i = none →
        (∀ p a, i = .openDev p a → (ev.map Event.micros).sum = 0) ∧
        (∀ on h w, i = .init on h w → (ev.map Event.micros).sum =
          if s.straps.transport = .raw then 23800 else 23800 + 9 * d) ∧
        (∀ y x, i = .goto y x → (ev.map Event.micros).sum = d) ∧
        (∀ len y x, i = .print len y x → (ev.map Event.micros).sum = if frameGood s 0 0 4 then 2 * d else d) ∧
        (∀ line, i = .clearAll line → (ev.map Event.micros).sum =
          if s.straps.transport = .raw then 2000 else 2000 + d) ∧
        (∀ line, i = .clearRow line → (ev.map Event.micros).sum = if frameGood s 0 0 4 then 2 * d else d) ∧
        (∀ on, i = .backlight on → (ev.map Event.micros).sum = d) ∧
        (∀ b p c k, i = .control b p c k → (ev.map Event.micros).sum = d) ∧
        (i = .close → (ev.map Event.micros).sum = if s.session = .opened then d else 0))
end

