-- ==== Sys2Proof/Laws/State.lean ====
section
/-! SUPPORT. What each update of the state does to each field, by rfl, so that no later proof unfolds a record update. -/

namespace Sys2Proof.Laws

open Sys2Proof.Machine

/-- `emit` appends one event. -/
@[simp] theorem emit_fields (e : Event) (s : State) :
    (emit e s).session = s.session ∧ (emit e s).phase = s.phase ∧ (emit e s).path = s.path ∧
    (emit e s).addr = s.addr ∧ (emit e s).width = s.width ∧ (emit e s).height = s.height ∧ (emit e s).bl = s.bl ∧
    (emit e s).disp = s.disp ∧ (emit e s).cur = s.cur ∧ (emit e s).blink = s.blink ∧ (emit e s).cmd = s.cmd ∧
    (emit e s).seq = s.seq ∧ (emit e s).resp = s.resp ∧ (emit e s).fault = s.fault ∧ (emit e s).lineLen = s.lineLen ∧
    (emit e s).line = s.line ∧ (emit e s).stageLen = s.stageLen ∧ (emit e s).stage = s.stage ∧
    (emit e s).text = s.text ∧ (emit e s).straps = s.straps ∧ (emit e s).trace = s.trace ++ [e] ∧
    (emit e s).boolAnswers = s.boolAnswers ∧ (emit e s).codeAnswers = s.codeAnswers ∧
    (emit e s).freeIdx = s.freeIdx ∧ (emit e s).inbox = s.inbox :=
  by refine ⟨?_, ?_, ?_, ?_, ?_, ?_, ?_, ?_, ?_, ?_, ?_, ?_, ?_, ?_, ?_, ?_, ?_, ?_, ?_, ?_, ?_, ?_, ?_, ?_, ?_⟩ <;> rfl

/-- `delay` appends one event. -/
@[simp] theorem delay_fields (n : Nat) (s : State) :
    (delay n s).session = s.session ∧ (delay n s).phase = s.phase ∧ (delay n s).path = s.path ∧
    (delay n s).addr = s.addr ∧ (delay n s).width = s.width ∧ (delay n s).height = s.height ∧ (delay n s).bl = s.bl ∧
    (delay n s).disp = s.disp ∧ (delay n s).cur = s.cur ∧ (delay n s).blink = s.blink ∧ (delay n s).cmd = s.cmd ∧
    (delay n s).seq = s.seq ∧ (delay n s).resp = s.resp ∧ (delay n s).fault = s.fault ∧
    (delay n s).lineLen = s.lineLen ∧ (delay n s).line = s.line ∧ (delay n s).stageLen = s.stageLen ∧
    (delay n s).stage = s.stage ∧ (delay n s).text = s.text ∧ (delay n s).straps = s.straps ∧
    (delay n s).trace = s.trace ++ [.delay n] ∧ (delay n s).boolAnswers = s.boolAnswers ∧
    (delay n s).codeAnswers = s.codeAnswers ∧ (delay n s).freeIdx = s.freeIdx ∧ (delay n s).inbox = s.inbox :=
  by refine ⟨?_, ?_, ?_, ?_, ?_, ?_, ?_, ?_, ?_, ?_, ?_, ?_, ?_, ?_, ?_, ?_, ?_, ?_, ?_, ?_, ?_, ?_, ?_, ?_, ?_⟩ <;> rfl

/-- `chanRelease` appends one event. -/
@[simp] theorem chanRelease_fields (s : State) :
    (chanRelease s).session = s.session ∧ (chanRelease s).phase = s.phase ∧ (chanRelease s).path = s.path ∧
    (chanRelease s).addr = s.addr ∧ (chanRelease s).width = s.width ∧ (chanRelease s).height = s.height ∧
    (chanRelease s).bl = s.bl ∧ (chanRelease s).disp = s.disp ∧ (chanRelease s).cur = s.cur ∧
    (chanRelease s).blink = s.blink ∧ (chanRelease s).cmd = s.cmd ∧ (chanRelease s).seq = s.seq ∧
    (chanRelease s).resp = s.resp ∧ (chanRelease s).fault = s.fault ∧ (chanRelease s).lineLen = s.lineLen ∧
    (chanRelease s).line = s.line ∧ (chanRelease s).stageLen = s.stageLen ∧ (chanRelease s).stage = s.stage ∧
    (chanRelease s).text = s.text ∧ (chanRelease s).straps = s.straps ∧
    (chanRelease s).trace = s.trace ++ [.release] ∧ (chanRelease s).boolAnswers = s.boolAnswers ∧
    (chanRelease s).codeAnswers = s.codeAnswers ∧ (chanRelease s).freeIdx = s.freeIdx ∧
    (chanRelease s).inbox = s.inbox :=
  by refine ⟨?_, ?_, ?_, ?_, ?_, ?_, ?_, ?_, ?_, ?_, ?_, ?_, ?_, ?_, ?_, ?_, ?_, ?_, ?_, ?_, ?_, ?_, ?_, ?_, ?_⟩ <;> rfl

/-- `beginOp` moves the sequencer. -/
@[simp] theorem beginOp_fields (op : Op) (s : State) :
    (beginOp op s).session = s.session ∧ (beginOp op s).phase = s.phase ∧ (beginOp op s).path = s.path ∧
    (beginOp op s).addr = s.addr ∧ (beginOp op s).width = s.width ∧ (beginOp op s).height = s.height ∧
    (beginOp op s).bl = s.bl ∧ (beginOp op s).disp = s.disp ∧ (beginOp op s).cur = s.cur ∧
    (beginOp op s).blink = s.blink ∧ (beginOp op s).cmd = s.cmd ∧ (beginOp op s).seq = Seq.start op ∧
    (beginOp op s).resp = s.resp ∧ (beginOp op s).fault = s.fault ∧ (beginOp op s).lineLen = s.lineLen ∧
    (beginOp op s).line = s.line ∧ (beginOp op s).stageLen = s.stageLen ∧ (beginOp op s).stage = s.stage ∧
    (beginOp op s).text = s.text ∧ (beginOp op s).straps = s.straps ∧ (beginOp op s).trace = s.trace ∧
    (beginOp op s).boolAnswers = s.boolAnswers ∧ (beginOp op s).codeAnswers = s.codeAnswers ∧
    (beginOp op s).freeIdx = s.freeIdx ∧ (beginOp op s).inbox = s.inbox :=
  by refine ⟨?_, ?_, ?_, ?_, ?_, ?_, ?_, ?_, ?_, ?_, ?_, ?_, ?_, ?_, ?_, ?_, ?_, ?_, ?_, ?_, ?_, ?_, ?_, ?_, ?_⟩ <;> rfl

/-- `endSuccess` writes the response and idles the sequencer. -/
@[simp] theorem endSuccess_fields (s : State) :
    (endSuccess s).session = s.session ∧ (endSuccess s).phase = s.phase ∧ (endSuccess s).path = s.path ∧
    (endSuccess s).addr = s.addr ∧ (endSuccess s).width = s.width ∧ (endSuccess s).height = s.height ∧
    (endSuccess s).bl = s.bl ∧ (endSuccess s).disp = s.disp ∧ (endSuccess s).cur = s.cur ∧
    (endSuccess s).blink = s.blink ∧ (endSuccess s).cmd = s.cmd ∧ (endSuccess s).seq = Seq.idle ∧
    (endSuccess s).resp = Resp.success ∧ (endSuccess s).fault = s.fault ∧ (endSuccess s).lineLen = s.lineLen ∧
    (endSuccess s).line = s.line ∧ (endSuccess s).stageLen = s.stageLen ∧ (endSuccess s).stage = s.stage ∧
    (endSuccess s).text = s.text ∧ (endSuccess s).straps = s.straps ∧ (endSuccess s).trace = s.trace ∧
    (endSuccess s).boolAnswers = s.boolAnswers ∧ (endSuccess s).codeAnswers = s.codeAnswers ∧
    (endSuccess s).freeIdx = s.freeIdx ∧ (endSuccess s).inbox = s.inbox :=
  by refine ⟨?_, ?_, ?_, ?_, ?_, ?_, ?_, ?_, ?_, ?_, ?_, ?_, ?_, ?_, ?_, ?_, ?_, ?_, ?_, ?_, ?_, ?_, ?_, ?_, ?_⟩ <;> rfl

/-- `endFailure` writes the response and idles the sequencer. -/
@[simp] theorem endFailure_fields (e : Err) (s : State) :
    (endFailure e s).session = s.session ∧ (endFailure e s).phase = s.phase ∧ (endFailure e s).path = s.path ∧
    (endFailure e s).addr = s.addr ∧ (endFailure e s).width = s.width ∧ (endFailure e s).height = s.height ∧
    (endFailure e s).bl = s.bl ∧ (endFailure e s).disp = s.disp ∧ (endFailure e s).cur = s.cur ∧
    (endFailure e s).blink = s.blink ∧ (endFailure e s).cmd = s.cmd ∧ (endFailure e s).seq = Seq.idle ∧
    (endFailure e s).resp = Resp.failure e ∧ (endFailure e s).fault = s.fault ∧
    (endFailure e s).lineLen = s.lineLen ∧ (endFailure e s).line = s.line ∧ (endFailure e s).stageLen = s.stageLen ∧
    (endFailure e s).stage = s.stage ∧ (endFailure e s).text = s.text ∧ (endFailure e s).straps = s.straps ∧
    (endFailure e s).trace = s.trace ∧ (endFailure e s).boolAnswers = s.boolAnswers ∧
    (endFailure e s).codeAnswers = s.codeAnswers ∧ (endFailure e s).freeIdx = s.freeIdx ∧
    (endFailure e s).inbox = s.inbox :=
  by refine ⟨?_, ?_, ?_, ?_, ?_, ?_, ?_, ?_, ?_, ?_, ?_, ?_, ?_, ?_, ?_, ?_, ?_, ?_, ?_, ?_, ?_, ?_, ?_, ?_, ?_⟩ <;> rfl

/-- `raiseRefused` writes the response and the sticky flag. -/
@[simp] theorem raiseRefused_fields (r : Reason) (s : State) :
    (raiseRefused r s).session = s.session ∧ (raiseRefused r s).phase = s.phase ∧ (raiseRefused r s).path = s.path ∧
    (raiseRefused r s).addr = s.addr ∧ (raiseRefused r s).width = s.width ∧ (raiseRefused r s).height = s.height ∧
    (raiseRefused r s).bl = s.bl ∧ (raiseRefused r s).disp = s.disp ∧ (raiseRefused r s).cur = s.cur ∧
    (raiseRefused r s).blink = s.blink ∧ (raiseRefused r s).cmd = s.cmd ∧ (raiseRefused r s).seq = s.seq ∧
    (raiseRefused r s).resp = Resp.refused r ∧ (raiseRefused r s).fault = true ∧
    (raiseRefused r s).lineLen = s.lineLen ∧ (raiseRefused r s).line = s.line ∧
    (raiseRefused r s).stageLen = s.stageLen ∧ (raiseRefused r s).stage = s.stage ∧
    (raiseRefused r s).text = s.text ∧ (raiseRefused r s).straps = s.straps ∧ (raiseRefused r s).trace = s.trace ∧
    (raiseRefused r s).boolAnswers = s.boolAnswers ∧ (raiseRefused r s).codeAnswers = s.codeAnswers ∧
    (raiseRefused r s).freeIdx = s.freeIdx ∧ (raiseRefused r s).inbox = s.inbox :=
  by refine ⟨?_, ?_, ?_, ?_, ?_, ?_, ?_, ?_, ?_, ?_, ?_, ?_, ?_, ?_, ?_, ?_, ?_, ?_, ?_, ?_, ?_, ?_, ?_, ?_, ?_⟩ <;> rfl

/-- `setDisplay` writes the four flags. -/
@[simp] theorem setDisplay_fields (b d c k : Bool) (s : State) :
    (setDisplay b d c k s).session = s.session ∧ (setDisplay b d c k s).phase = s.phase ∧
    (setDisplay b d c k s).path = s.path ∧ (setDisplay b d c k s).addr = s.addr ∧
    (setDisplay b d c k s).width = s.width ∧ (setDisplay b d c k s).height = s.height ∧
    (setDisplay b d c k s).bl = b ∧ (setDisplay b d c k s).disp = d ∧ (setDisplay b d c k s).cur = c ∧
    (setDisplay b d c k s).blink = k ∧ (setDisplay b d c k s).cmd = s.cmd ∧ (setDisplay b d c k s).seq = s.seq ∧
    (setDisplay b d c k s).resp = s.resp ∧ (setDisplay b d c k s).fault = s.fault ∧
    (setDisplay b d c k s).lineLen = s.lineLen ∧ (setDisplay b d c k s).line = s.line ∧
    (setDisplay b d c k s).stageLen = s.stageLen ∧ (setDisplay b d c k s).stage = s.stage ∧
    (setDisplay b d c k s).text = s.text ∧ (setDisplay b d c k s).straps = s.straps ∧
    (setDisplay b d c k s).trace = s.trace ∧ (setDisplay b d c k s).boolAnswers = s.boolAnswers ∧
    (setDisplay b d c k s).codeAnswers = s.codeAnswers ∧ (setDisplay b d c k s).freeIdx = s.freeIdx ∧
    (setDisplay b d c k s).inbox = s.inbox :=
  by refine ⟨?_, ?_, ?_, ?_, ?_, ?_, ?_, ?_, ?_, ?_, ?_, ?_, ?_, ?_, ?_, ?_, ?_, ?_, ?_, ?_, ?_, ?_, ?_, ?_, ?_⟩ <;> rfl

/-- `setGeometry` writes the two geometry registers. -/
@[simp] theorem setGeometry_fields (h w : BitVec 8) (s : State) :
    (setGeometry h w s).session = s.session ∧ (setGeometry h w s).phase = s.phase ∧
    (setGeometry h w s).path = s.path ∧ (setGeometry h w s).addr = s.addr ∧
    (setGeometry h w s).width = w.setWidth 7 ∧ (setGeometry h w s).height = h.setWidth 3 ∧
    (setGeometry h w s).bl = s.bl ∧ (setGeometry h w s).disp = s.disp ∧ (setGeometry h w s).cur = s.cur ∧
    (setGeometry h w s).blink = s.blink ∧ (setGeometry h w s).cmd = s.cmd ∧ (setGeometry h w s).seq = s.seq ∧
    (setGeometry h w s).resp = s.resp ∧ (setGeometry h w s).fault = s.fault ∧
    (setGeometry h w s).lineLen = s.lineLen ∧ (setGeometry h w s).line = s.line ∧
    (setGeometry h w s).stageLen = s.stageLen ∧ (setGeometry h w s).stage = s.stage ∧
    (setGeometry h w s).text = s.text ∧ (setGeometry h w s).straps = s.straps ∧ (setGeometry h w s).trace = s.trace ∧
    (setGeometry h w s).boolAnswers = s.boolAnswers ∧ (setGeometry h w s).codeAnswers = s.codeAnswers ∧
    (setGeometry h w s).freeIdx = s.freeIdx ∧ (setGeometry h w s).inbox = s.inbox :=
  by refine ⟨?_, ?_, ?_, ?_, ?_, ?_, ?_, ?_, ?_, ?_, ?_, ?_, ?_, ?_, ?_, ?_, ?_, ?_, ?_, ?_, ?_, ?_, ?_, ?_, ?_⟩ <;> rfl

/-- `beginSession` writes the four session registers. -/
@[simp] theorem beginSession_fields (p : BitVec 8) (a : BitVec 7) (s : State) :
    (beginSession p a s).session = .opened ∧ (beginSession p a s).phase = .uninitialized ∧
    (beginSession p a s).path = p ∧ (beginSession p a s).addr = a ∧ (beginSession p a s).width = s.width ∧
    (beginSession p a s).height = s.height ∧ (beginSession p a s).bl = s.bl ∧ (beginSession p a s).disp = s.disp ∧
    (beginSession p a s).cur = s.cur ∧ (beginSession p a s).blink = s.blink ∧ (beginSession p a s).cmd = s.cmd ∧
    (beginSession p a s).seq = s.seq ∧ (beginSession p a s).resp = s.resp ∧ (beginSession p a s).fault = s.fault ∧
    (beginSession p a s).lineLen = s.lineLen ∧ (beginSession p a s).line = s.line ∧
    (beginSession p a s).stageLen = s.stageLen ∧ (beginSession p a s).stage = s.stage ∧
    (beginSession p a s).text = s.text ∧ (beginSession p a s).straps = s.straps ∧
    (beginSession p a s).trace = s.trace ∧ (beginSession p a s).boolAnswers = s.boolAnswers ∧
    (beginSession p a s).codeAnswers = s.codeAnswers ∧ (beginSession p a s).freeIdx = s.freeIdx ∧
    (beginSession p a s).inbox = s.inbox :=
  by refine ⟨?_, ?_, ?_, ?_, ?_, ?_, ?_, ?_, ?_, ?_, ?_, ?_, ?_, ?_, ?_, ?_, ?_, ?_, ?_, ?_, ?_, ?_, ?_, ?_, ?_⟩ <;> rfl

/-- `endSession` closes. -/
@[simp] theorem endSession_fields (s : State) :
    (endSession s).session = .closed ∧ (endSession s).phase = .uninitialized ∧ (endSession s).path = s.path ∧
    (endSession s).addr = s.addr ∧ (endSession s).width = s.width ∧ (endSession s).height = s.height ∧
    (endSession s).bl = s.bl ∧ (endSession s).disp = s.disp ∧ (endSession s).cur = s.cur ∧
    (endSession s).blink = s.blink ∧ (endSession s).cmd = s.cmd ∧ (endSession s).seq = s.seq ∧
    (endSession s).resp = s.resp ∧ (endSession s).fault = s.fault ∧ (endSession s).lineLen = s.lineLen ∧
    (endSession s).line = s.line ∧ (endSession s).stageLen = s.stageLen ∧ (endSession s).stage = s.stage ∧
    (endSession s).text = s.text ∧ (endSession s).straps = s.straps ∧ (endSession s).trace = s.trace ∧
    (endSession s).boolAnswers = s.boolAnswers ∧ (endSession s).codeAnswers = s.codeAnswers ∧
    (endSession s).freeIdx = s.freeIdx ∧ (endSession s).inbox = s.inbox :=
  by refine ⟨?_, ?_, ?_, ?_, ?_, ?_, ?_, ?_, ?_, ?_, ?_, ?_, ?_, ?_, ?_, ?_, ?_, ?_, ?_, ?_, ?_, ?_, ?_, ?_, ?_⟩ <;> rfl

/-- `fillLine` writes LINE and its length. -/
@[simp] theorem fillLine_fields (bs : List Byte) (s : State) :
    (fillLine bs s).session = s.session ∧ (fillLine bs s).phase = s.phase ∧ (fillLine bs s).path = s.path ∧
    (fillLine bs s).addr = s.addr ∧ (fillLine bs s).width = s.width ∧ (fillLine bs s).height = s.height ∧
    (fillLine bs s).bl = s.bl ∧ (fillLine bs s).disp = s.disp ∧ (fillLine bs s).cur = s.cur ∧
    (fillLine bs s).blink = s.blink ∧ (fillLine bs s).cmd = s.cmd ∧ (fillLine bs s).seq = s.seq ∧
    (fillLine bs s).resp = s.resp ∧ (fillLine bs s).fault = s.fault ∧
    (fillLine bs s).lineLen = BitVec.ofNat 7 bs.length ∧ (fillLine bs s).line = s.line.writeFrom 0 bs ∧
    (fillLine bs s).stageLen = s.stageLen ∧ (fillLine bs s).stage = s.stage ∧ (fillLine bs s).text = s.text ∧
    (fillLine bs s).straps = s.straps ∧ (fillLine bs s).trace = s.trace ∧
    (fillLine bs s).boolAnswers = s.boolAnswers ∧ (fillLine bs s).codeAnswers = s.codeAnswers ∧
    (fillLine bs s).freeIdx = s.freeIdx ∧ (fillLine bs s).inbox = s.inbox :=
  by refine ⟨?_, ?_, ?_, ?_, ?_, ?_, ?_, ?_, ?_, ?_, ?_, ?_, ?_, ?_, ?_, ?_, ?_, ?_, ?_, ?_, ?_, ?_, ?_, ?_, ?_⟩ <;> rfl

/-- `stageFrame` writes STAGE and its length and moves the sequencer. -/
@[simp] theorem stageFrame_fields (sls : List Slot) (s : State) :
    (stageFrame sls s).session = s.session ∧ (stageFrame sls s).phase = s.phase ∧ (stageFrame sls s).path = s.path ∧
    (stageFrame sls s).addr = s.addr ∧ (stageFrame sls s).width = s.width ∧ (stageFrame sls s).height = s.height ∧
    (stageFrame sls s).bl = s.bl ∧ (stageFrame sls s).disp = s.disp ∧ (stageFrame sls s).cur = s.cur ∧
    (stageFrame sls s).blink = s.blink ∧ (stageFrame sls s).cmd = s.cmd ∧
    (stageFrame sls s).seq = sls.foldl (fun q sl => q.place sl.byte sl.nib sl.en) s.seq ∧
    (stageFrame sls s).resp = s.resp ∧ (stageFrame sls s).fault = s.fault ∧ (stageFrame sls s).lineLen = s.lineLen ∧
    (stageFrame sls s).line = s.line ∧ (stageFrame sls s).stageLen = BitVec.ofNat 7 sls.length ∧
    (stageFrame sls s).stage = s.stage.writeFrom 0 (sls.map Slot.val) ∧ (stageFrame sls s).text = s.text ∧
    (stageFrame sls s).straps = s.straps ∧ (stageFrame sls s).trace = s.trace ∧
    (stageFrame sls s).boolAnswers = s.boolAnswers ∧ (stageFrame sls s).codeAnswers = s.codeAnswers ∧
    (stageFrame sls s).freeIdx = s.freeIdx ∧ (stageFrame sls s).inbox = s.inbox :=
  by refine ⟨?_, ?_, ?_, ?_, ?_, ?_, ?_, ?_, ?_, ?_, ?_, ?_, ?_, ?_, ?_, ?_, ?_, ?_, ?_, ?_, ?_, ?_, ?_, ?_, ?_⟩ <;> rfl

/-- `dropStage` gives up the contents of STAGE. -/
@[simp] theorem dropStage_fields (s : State) :
    (dropStage s).session = s.session ∧ (dropStage s).phase = s.phase ∧ (dropStage s).path = s.path ∧
    (dropStage s).addr = s.addr ∧ (dropStage s).width = s.width ∧ (dropStage s).height = s.height ∧
    (dropStage s).bl = s.bl ∧ (dropStage s).disp = s.disp ∧ (dropStage s).cur = s.cur ∧
    (dropStage s).blink = s.blink ∧ (dropStage s).cmd = s.cmd ∧ (dropStage s).seq = s.seq ∧
    (dropStage s).resp = s.resp ∧ (dropStage s).fault = s.fault ∧ (dropStage s).lineLen = s.lineLen ∧
    (dropStage s).line = s.line ∧ (dropStage s).stageLen = s.stageLen ∧ (dropStage s).stage = ⟨[]⟩ ∧
    (dropStage s).text = s.text ∧ (dropStage s).straps = s.straps ∧ (dropStage s).trace = s.trace ∧
    (dropStage s).boolAnswers = s.boolAnswers ∧ (dropStage s).codeAnswers = s.codeAnswers ∧
    (dropStage s).freeIdx = s.freeIdx ∧ (dropStage s).inbox = s.inbox :=
  by refine ⟨?_, ?_, ?_, ?_, ?_, ?_, ?_, ?_, ?_, ?_, ?_, ?_, ?_, ?_, ?_, ?_, ?_, ?_, ?_, ?_, ?_, ?_, ?_, ?_, ?_⟩ <;> rfl

/-- `dropLine` gives up the contents of LINE. -/
@[simp] theorem dropLine_fields (s : State) :
    (dropLine s).session = s.session ∧ (dropLine s).phase = s.phase ∧ (dropLine s).path = s.path ∧
    (dropLine s).addr = s.addr ∧ (dropLine s).width = s.width ∧ (dropLine s).height = s.height ∧
    (dropLine s).bl = s.bl ∧ (dropLine s).disp = s.disp ∧ (dropLine s).cur = s.cur ∧ (dropLine s).blink = s.blink ∧
    (dropLine s).cmd = s.cmd ∧ (dropLine s).seq = s.seq ∧ (dropLine s).resp = s.resp ∧ (dropLine s).fault = s.fault ∧
    (dropLine s).lineLen = s.lineLen ∧ (dropLine s).line = ⟨[]⟩ ∧ (dropLine s).stageLen = s.stageLen ∧
    (dropLine s).stage = s.stage ∧ (dropLine s).text = s.text ∧ (dropLine s).straps = s.straps ∧
    (dropLine s).trace = s.trace ∧ (dropLine s).boolAnswers = s.boolAnswers ∧
    (dropLine s).codeAnswers = s.codeAnswers ∧ (dropLine s).freeIdx = s.freeIdx ∧ (dropLine s).inbox = s.inbox :=
  by refine ⟨?_, ?_, ?_, ?_, ?_, ?_, ?_, ?_, ?_, ?_, ?_, ?_, ?_, ?_, ?_, ?_, ?_, ?_, ?_, ?_, ?_, ?_, ?_, ?_, ?_⟩ <;> rfl

/-- `moveTo` moves the sequencer. -/
@[simp] theorem moveTo_fields (sl : Slot) (s : State) :
    (moveTo sl s).session = s.session ∧ (moveTo sl s).phase = s.phase ∧ (moveTo sl s).path = s.path ∧
    (moveTo sl s).addr = s.addr ∧ (moveTo sl s).width = s.width ∧ (moveTo sl s).height = s.height ∧
    (moveTo sl s).bl = s.bl ∧ (moveTo sl s).disp = s.disp ∧ (moveTo sl s).cur = s.cur ∧
    (moveTo sl s).blink = s.blink ∧ (moveTo sl s).cmd = s.cmd ∧
    (moveTo sl s).seq = s.seq.place sl.byte sl.nib sl.en ∧ (moveTo sl s).resp = s.resp ∧
    (moveTo sl s).fault = s.fault ∧ (moveTo sl s).lineLen = s.lineLen ∧ (moveTo sl s).line = s.line ∧
    (moveTo sl s).stageLen = s.stageLen ∧ (moveTo sl s).stage = s.stage ∧ (moveTo sl s).text = s.text ∧
    (moveTo sl s).straps = s.straps ∧ (moveTo sl s).trace = s.trace ∧ (moveTo sl s).boolAnswers = s.boolAnswers ∧
    (moveTo sl s).codeAnswers = s.codeAnswers ∧ (moveTo sl s).freeIdx = s.freeIdx ∧ (moveTo sl s).inbox = s.inbox :=
  by refine ⟨?_, ?_, ?_, ?_, ?_, ?_, ?_, ?_, ?_, ?_, ?_, ?_, ?_, ?_, ?_, ?_, ?_, ?_, ?_, ?_, ?_, ?_, ?_, ?_, ?_⟩ <;> rfl

/-- `frameDone` moves the sequencer. -/
@[simp] theorem frameDone_fields (s : State) :
    (frameDone s).session = s.session ∧ (frameDone s).phase = s.phase ∧ (frameDone s).path = s.path ∧
    (frameDone s).addr = s.addr ∧ (frameDone s).width = s.width ∧ (frameDone s).height = s.height ∧
    (frameDone s).bl = s.bl ∧ (frameDone s).disp = s.disp ∧ (frameDone s).cur = s.cur ∧
    (frameDone s).blink = s.blink ∧ (frameDone s).cmd = s.cmd ∧ (frameDone s).seq = s.seq.nextSend ∧
    (frameDone s).resp = s.resp ∧ (frameDone s).fault = s.fault ∧ (frameDone s).lineLen = s.lineLen ∧
    (frameDone s).line = s.line ∧ (frameDone s).stageLen = s.stageLen ∧ (frameDone s).stage = s.stage ∧
    (frameDone s).text = s.text ∧ (frameDone s).straps = s.straps ∧ (frameDone s).trace = s.trace ∧
    (frameDone s).boolAnswers = s.boolAnswers ∧ (frameDone s).codeAnswers = s.codeAnswers ∧
    (frameDone s).freeIdx = s.freeIdx ∧ (frameDone s).inbox = s.inbox :=
  by refine ⟨?_, ?_, ?_, ?_, ?_, ?_, ?_, ?_, ?_, ?_, ?_, ?_, ?_, ?_, ?_, ?_, ?_, ?_, ?_, ?_, ?_, ?_, ?_, ?_, ?_⟩ <;> rfl

/-- `nextFree` advances the counter. -/
@[simp] theorem nextFree_fields (s : State) :
    (nextFree s).session = s.session ∧ (nextFree s).phase = s.phase ∧ (nextFree s).path = s.path ∧
    (nextFree s).addr = s.addr ∧ (nextFree s).width = s.width ∧ (nextFree s).height = s.height ∧
    (nextFree s).bl = s.bl ∧ (nextFree s).disp = s.disp ∧ (nextFree s).cur = s.cur ∧ (nextFree s).blink = s.blink ∧
    (nextFree s).cmd = s.cmd ∧ (nextFree s).seq = s.seq ∧ (nextFree s).resp = s.resp ∧ (nextFree s).fault = s.fault ∧
    (nextFree s).lineLen = s.lineLen ∧ (nextFree s).line = s.line ∧ (nextFree s).stageLen = s.stageLen ∧
    (nextFree s).stage = s.stage ∧ (nextFree s).text = s.text ∧ (nextFree s).straps = s.straps ∧
    (nextFree s).trace = s.trace ∧ (nextFree s).boolAnswers = s.boolAnswers ∧
    (nextFree s).codeAnswers = s.codeAnswers ∧ (nextFree s).freeIdx = s.freeIdx + 1 ∧ (nextFree s).inbox = s.inbox :=
  by refine ⟨?_, ?_, ?_, ?_, ?_, ?_, ?_, ?_, ?_, ?_, ?_, ?_, ?_, ?_, ?_, ?_, ?_, ?_, ?_, ?_, ?_, ?_, ?_, ?_, ?_⟩ <;> rfl

/-- `resetPulse` is the reset state in the fields of 10_state R9. -/
@[simp] theorem resetPulse_fields (s : State) :
    (resetPulse s).session = State.reset.session ∧ (resetPulse s).phase = State.reset.phase ∧
    (resetPulse s).path = State.reset.path ∧ (resetPulse s).addr = State.reset.addr ∧
    (resetPulse s).width = State.reset.width ∧ (resetPulse s).height = State.reset.height ∧
    (resetPulse s).bl = State.reset.bl ∧ (resetPulse s).disp = State.reset.disp ∧
    (resetPulse s).cur = State.reset.cur ∧ (resetPulse s).blink = State.reset.blink ∧
    (resetPulse s).cmd = State.reset.cmd ∧ (resetPulse s).seq = State.reset.seq ∧
    (resetPulse s).resp = State.reset.resp ∧ (resetPulse s).fault = State.reset.fault ∧
    (resetPulse s).lineLen = State.reset.lineLen ∧ (resetPulse s).line = State.reset.line ∧
    (resetPulse s).stageLen = State.reset.stageLen ∧ (resetPulse s).stage = State.reset.stage ∧
    (resetPulse s).text = State.reset.text ∧ (resetPulse s).straps = s.straps ∧ (resetPulse s).trace = s.trace ∧
    (resetPulse s).boolAnswers = s.boolAnswers ∧ (resetPulse s).codeAnswers = s.codeAnswers ∧
    (resetPulse s).freeIdx = s.freeIdx ∧ (resetPulse s).inbox = s.inbox :=
  by refine ⟨?_, ?_, ?_, ?_, ?_, ?_, ?_, ?_, ?_, ?_, ?_, ?_, ?_, ?_, ?_, ?_, ?_, ?_, ?_, ?_, ?_, ?_, ?_, ?_, ?_⟩ <;> rfl

end Sys2Proof.Laws
end

