-- ==== Sys2Proof/Laws/Channel.lean ====
section
/-! SUPPORT. The channel primitives: the answer each one takes, how the coming answers move on, and what no primitive and no
sender touches. -/

namespace Sys2Proof.Laws

open Sys2Proof.Machine Sys2Proof.Safety

/-- Only the trace, the channel's answers, STAGE and the sequencer may differ. -/
structure OnlyTransport (s t : State) : Prop where
  session : t.session = s.session
  phase : t.phase = s.phase
  path : t.path = s.path
  addr : t.addr = s.addr
  width : t.width = s.width
  height : t.height = s.height
  bl : t.bl = s.bl
  disp : t.disp = s.disp
  cur : t.cur = s.cur
  blink : t.blink = s.blink
  cmd : t.cmd = s.cmd
  resp : t.resp = s.resp
  fault : t.fault = s.fault
  lineLen : t.lineLen = s.lineLen
  line : t.line = s.line
  text : t.text = s.text
  straps : t.straps = s.straps
  inbox : t.inbox = s.inbox

theorem OnlyTransport.refl (s : State) : OnlyTransport s s := by constructor <;> rfl

theorem OnlyTransport.trans {s t u : State} (h : OnlyTransport s t) (k : OnlyTransport t u) : OnlyTransport s u where
  session := k.session.trans h.session
  phase := k.phase.trans h.phase
  path := k.path.trans h.path
  addr := k.addr.trans h.addr
  width := k.width.trans h.width
  height := k.height.trans h.height
  bl := k.bl.trans h.bl
  disp := k.disp.trans h.disp
  cur := k.cur.trans h.cur
  blink := k.blink.trans h.blink
  cmd := k.cmd.trans h.cmd
  resp := k.resp.trans h.resp
  fault := k.fault.trans h.fault
  lineLen := k.lineLen.trans h.lineLen
  line := k.line.trans h.line
  text := k.text.trans h.text
  straps := k.straps.trans h.straps
  inbox := k.inbox.trans h.inbox

theorem emit_keeps (e : Event) (s : State) : OnlyTransport s (emit e s) := by constructor <;> rfl

theorem delay_keeps (n : Nat) (s : State) : OnlyTransport s (delay n s) := by constructor <;> rfl

theorem moveTo_keeps (sl : Slot) (s : State) : OnlyTransport s (moveTo sl s) := by constructor <;> rfl

theorem frameDone_keeps (s : State) : OnlyTransport s (frameDone s) := by constructor <;> rfl

theorem dropStage_keeps (s : State) : OnlyTransport s (dropStage s) := by constructor <;> rfl

theorem stageFrame_keeps (sls : List Slot) (s : State) : OnlyTransport s (stageFrame sls s) := by constructor <;> rfl

theorem nextBool_keeps (s : State) : OnlyTransport s (nextBool s).2 := by
  simp only [nextBool]; split <;> constructor <;> rfl

theorem nextCode_keeps (s : State) : OnlyTransport s (nextCode s).2 := by
  simp only [nextCode]; split <;> constructor <;> rfl

@[simp] theorem nextBool_trace (s : State) : (nextBool s).2.trace = s.trace := by
  simp only [nextBool]; split <;> rfl

@[simp] theorem nextBool_seq (s : State) : (nextBool s).2.seq = s.seq := by
  simp only [nextBool]; split <;> rfl

@[simp] theorem nextBool_stage (s : State) :
    (nextBool s).2.stage = s.stage ∧ (nextBool s).2.stageLen = s.stageLen := by
  simp only [nextBool]; split <;> exact ⟨rfl, rfl⟩

@[simp] theorem nextCode_trace (s : State) : (nextCode s).2.trace = s.trace := by
  simp only [nextCode]; split <;> rfl

@[simp] theorem nextCode_seq (s : State) : (nextCode s).2.seq = s.seq := by
  simp only [nextCode]; split <;> rfl

@[simp] theorem nextCode_stage (s : State) :
    (nextCode s).2.stage = s.stage ∧ (nextCode s).2.stageLen = s.stageLen := by
  simp only [nextCode]; split <;> exact ⟨rfl, rfl⟩

/-- A bool primitive takes the next coming answer. -/
theorem nextBool_answer (s : State) : (nextBool s).1 = boolAt s 0 := by
  simp only [nextBool, boolAt]; split <;> simp_all

/-- After a bool primitive the coming answers are the ones after its own. -/
theorem boolAt_nextBool (s : State) (k : Nat) : boolAt (nextBool s).2 k = boolAt s (k + 1) := by
  rcases h : s.boolAnswers with _ | ⟨a, rest⟩
  · simp [nextBool, boolAt, h, Nat.add_assoc, Nat.add_comm 1]
  · simp [nextBool, boolAt, h]

/-- A block write takes the next coming code. -/
theorem nextCode_answer (s : State) : (nextCode s).1 = codeAt s 0 := by
  simp only [nextCode, codeAt]; split <;> simp_all

/-- After a block write the coming codes are the ones after its own. -/
theorem codeAt_nextCode (s : State) (k : Nat) : codeAt (nextCode s).2 k = codeAt s (k + 1) := by
  rcases h : s.codeAnswers with _ | ⟨c, rest⟩
  · simp [nextCode, codeAt, h, Nat.add_assoc, Nat.add_comm 1]
  · simp [nextCode, codeAt, h]

/-- The coming bool answers depend on two fields only. -/
theorem boolAt_congr {s t : State} (h : t.boolAnswers = s.boolAnswers) (k : t.freeIdx = s.freeIdx) (n : Nat) :
    boolAt t n = boolAt s n := by simp [boolAt, h, k]

/-- The coming codes depend on two fields only. -/
theorem codeAt_congr {s t : State} (h : t.codeAnswers = s.codeAnswers) (k : t.freeIdx = s.freeIdx) (n : Nat) :
    codeAt t n = codeAt s n := by simp [codeAt, h, k]

theorem chanOpen_keeps (p : BitVec 8) (s : State) : OnlyTransport s (chanOpen p s).2 :=
  (emit_keeps _ s).trans (nextBool_keeps _)

theorem chanBind_keeps (a : BitVec 7) (s : State) : OnlyTransport s (chanBind a s).2 :=
  (emit_keeps _ s).trans (nextBool_keeps _)

theorem chanWrite_keeps (b : Byte) (s : State) : OnlyTransport s (chanWrite b s).2 :=
  (emit_keeps _ s).trans (nextBool_keeps _)

theorem chanBlockWrite_keeps (bs : List Byte) (s : State) : OnlyTransport s (chanBlockWrite bs s).2 :=
  (emit_keeps _ s).trans (nextCode_keeps _)

theorem chanRelease_keeps (s : State) : OnlyTransport s (chanRelease s) := emit_keeps _ s

/-- A bool primitive: its event, its answer, the answers after it. -/
theorem chanWrite_spec (b : Byte) (s : State) :
    (chanWrite b s).1 = boolAt s 0 ∧ (chanWrite b s).2.trace = s.trace ++ [.write b] ∧
      ∀ k, boolAt (chanWrite b s).2 k = boolAt s (k + 1) := by
  refine ⟨?_, ?_, fun k => ?_⟩
  · exact (nextBool_answer _).trans (boolAt_congr rfl rfl 0)
  · simp [chanWrite]
  · exact (boolAt_nextBool _ k).trans (boolAt_congr rfl rfl _)

/-- A block write: its event, its code, the codes after it. -/
theorem chanBlockWrite_spec (bs : List Byte) (s : State) :
    (chanBlockWrite bs s).1 = codeAt s 0 ∧ (chanBlockWrite bs s).2.trace = s.trace ++ [.blockWrite bs] ∧
      ∀ k, codeAt (chanBlockWrite bs s).2 k = codeAt s (k + 1) := by
  refine ⟨?_, ?_, fun k => ?_⟩
  · exact (nextCode_answer _).trans (codeAt_congr rfl rfl 0)
  · simp [chanBlockWrite]
  · exact (codeAt_nextCode _ k).trans (codeAt_congr rfl rfl _)

end Sys2Proof.Laws
end

