-- ==== Sys2Proof/Laws/Coding.lean ====
section
/-! SUPPORT. Fields and bits of a word as numbers, which the encoding proofs rewrite with. -/

namespace Sys2Proof.Laws

open Sys2Proof.Decode

/-- A field of a word as a number. -/
theorem field_toNat (lo n : Nat) (w : Word) : (field lo n w).toNat = w.toNat / 2 ^ lo % 2 ^ n := by
  simp [field, Nat.shiftRight_eq_div_pow]

/-- A field equals a value when the numbers do. -/
theorem field_eq_iff (lo n : Nat) (w : Word) (v : BitVec n) : field lo n w = v ↔ w.toNat / 2 ^ lo % 2 ^ n = v.toNat := by
  rw [← field_toNat]; exact ⟨fun h => h ▸ rfl, BitVec.eq_of_toNat_eq⟩

/-- A bit of a word as a number. -/
theorem bit_eq (i : Nat) (w : Word) : w.getLsbD i = decide (w.toNat / 2 ^ i % 2 = 1) := by
  rw [BitVec.getLsbD, Nat.testBit_eq_decide_div_mod_eq]

theorem hostWord_toNat {op operands : Nat} (h : op * 2 ^ 28 + operands < 2 ^ 32) :
    (hostWord op operands).toNat = op * 2 ^ 28 + operands := by
  rw [hostWord, BitVec.toNat_ofNat, Nat.mod_eq_of_lt h]

theorem wireWord_toNat {bits : Nat} (h : bits < 2 ^ 32) : (wireWord bits).toNat = bits := by
  rw [wireWord, BitVec.toNat_ofNat, Nat.mod_eq_of_lt h]

end Sys2Proof.Laws
end

