-- ==== Sys2Proof/Laws/Memory.lean ====
section
/-! SUPPORT. The buffers: read after write, the canonical form, and what a run of writes leaves. -/

namespace Sys2Proof.Laws

open Sys2Proof.Machine

theorem find_insert (a x : Nat) (b : Byte) (cs : List Host.Cell) :
    Memory.find x (Memory.insert a b cs) = if x = a then some b else Memory.find x cs := by
  induction cs with
  | nil => simp [Memory.insert, Memory.find, eq_comm]
  | cons c cs ih =>
    simp only [Memory.insert]
    by_cases hx : x = a
    · subst hx
      split
      · simp [Memory.find]
      · split
        · simp [Memory.find]
        · rename_i h2; simp [Memory.find, h2, ih]
    · have hx' : a ≠ x := fun h => hx h.symm
      split
      · simp [Memory.find, hx']
      · split
        · rename_i h2; simp [Memory.find, hx', h2]
        · simp [Memory.find, hx, ih]

/-- A byte written is read back, and every other address reads as before. -/
theorem read_write (m : Memory) (a x : Nat) (b : Byte) :
    (m.write a b).read x = if x = a then some b else m.read x := find_insert a x b m.cells

/-- A run of writes: inside it the bytes written are read back, outside it everything reads as before. -/
theorem read_writeFrom (bs : List Byte) (m : Memory) (a x : Nat) :
    (m.writeFrom a bs).read x = if a ≤ x ∧ x < a + bs.length then bs[x - a]? else m.read x := by
  induction bs generalizing m a with
  | nil => simp [Memory.writeFrom]
  | cons b bs ih =>
    rw [Memory.writeFrom, ih, read_write]
    by_cases h : x = a
    · subst h; simp
    · by_cases h1 : a + 1 ≤ x ∧ x < a + 1 + bs.length
      · have h2 : a ≤ x ∧ x < a + (b :: bs).length := by simp; omega
        have h3 : x - a = (x - (a + 1)) + 1 := by omega
        rw [if_pos h1, if_pos h2, h3, List.getElem?_cons_succ]
      · have h2 : ¬ (a ≤ x ∧ x < a + (b :: bs).length) := by simp; omega
        rw [if_neg h1, if_neg h2, if_neg h]

/-- Bytes written in a run are what reading the run gives. -/
theorem readFrom_eq (m : Memory) (a : Nat) (bs : List Byte)
    (h : ∀ k, k < bs.length → m.read (a + k) = bs[k]?) : m.readFrom a bs.length = some bs := by
  induction bs generalizing a with
  | nil => rfl
  | cons b bs ih =>
    have h0 : m.read a = some b := by simpa using h 0 (by simp)
    have hs : m.readFrom (a + 1) bs.length = some bs := by
      refine ih (a + 1) fun k hk => ?_
      have := h (k + 1) (by simpa using hk)
      simpa [Nat.add_assoc, Nat.add_comm 1 k] using this
    simp [Memory.readFrom, h0, hs]

/-- A run reads back as the bytes written to it. -/
theorem readFrom_writeFrom (m : Memory) (a : Nat) (bs : List Byte) :
    (m.writeFrom a bs).readFrom a bs.length = some bs :=
  readFrom_eq _ _ _ fun k hk => by simp [read_writeFrom, hk]

theorem readFrom_length {m : Memory} {n a : Nat} {bs : List Byte} (h : m.readFrom a n = some bs) :
    bs.length = n := by
  induction n generalizing a bs with
  | zero => simp [Memory.readFrom] at h; simp [← h]
  | succ n ih =>
    simp only [Memory.readFrom] at h
    split at h
    · simp at h
    · split at h
      · simp at h
      · rename_i bs' hbs
        simp only [Option.some.injEq] at h
        simp [← h, ih hbs]

/-- Reading a run succeeds when every byte of it has a value. -/
theorem readFrom_some {m : Memory} {n a : Nat} (h : ∀ k, k < n → (m.read (a + k)).isSome) :
    ∃ bs, m.readFrom a n = some bs := by
  induction n generalizing a with
  | zero => exact ⟨[], rfl⟩
  | succ n ih =>
    obtain ⟨b, hb⟩ := Option.isSome_iff_exists.mp (h 0 (by omega))
    obtain ⟨bs, hbs⟩ := @ih (a + 1) fun k hk => by
      have := h (k + 1) (by omega); rwa [Nat.add_assoc, Nat.add_comm 1 k]
    exact ⟨b :: bs, by simp only [Nat.add_zero] at hb; simp [Memory.readFrom, hb, hbs]⟩

theorem rising_cons {c : Host.Cell} {cs : List Host.Cell} :
    Memory.rising (c :: cs) = true ↔ (∀ d, cs.head? = some d → c.1 < d.1) ∧ Memory.rising cs = true := by
  cases cs <;> simp [Memory.rising]

theorem head_insert (a : Nat) (b : Byte) (cs : List Host.Cell) (n : Nat) (hn : n < a)
    (h : ∀ d, cs.head? = some d → n < d.1) : ∀ d, (Memory.insert a b cs).head? = some d → n < d.1 := by
  intro d hd
  cases cs with
  | nil => simp [Memory.insert] at hd; simp [← hd, hn]
  | cons c cs =>
    simp only [Memory.insert] at hd
    split at hd
    · simp at hd; simp [← hd, hn]
    · split at hd
      · simp at hd; simp [← hd, hn]
      · simp at hd; exact h d (by simp [hd])

theorem rising_insert (a : Nat) (b : Byte) (cs : List Host.Cell) (h : Memory.rising cs = true) :
    Memory.rising (Memory.insert a b cs) = true := by
  induction cs with
  | nil => rfl
  | cons c cs ih =>
    obtain ⟨h1, h2⟩ := rising_cons.mp h
    simp only [Memory.insert]
    split
    · rename_i hlt
      exact rising_cons.mpr ⟨fun d hd => by simp at hd; simpa [← hd] using hlt, h⟩
    · split
      · rename_i heq
        exact rising_cons.mpr ⟨fun d hd => by simpa [heq] using h1 d hd, h2⟩
      · exact rising_cons.mpr ⟨head_insert a b cs c.1 (by omega) h1, ih h2⟩

/-- A write keeps the canonical form. -/
theorem write_wf (m : Memory) (a : Nat) (b : Byte) (h : m.wf = true) : (m.write a b).wf = true :=
  rising_insert a b m.cells h

/-- A run of writes keeps the canonical form. -/
theorem writeFrom_wf (bs : List Byte) (m : Memory) (a : Nat) (h : m.wf = true) : (m.writeFrom a bs).wf = true := by
  induction bs generalizing m a with
  | nil => exact h
  | cons b bs ih => exact ih _ _ (write_wf m a b h)

theorem within_insert (size a : Nat) (b : Byte) (cs : List Host.Cell) (ha : a < size)
    (h : (cs.all fun c => decide (c.1 < size)) = true) :
    ((Memory.insert a b cs).all fun c => decide (c.1 < size)) = true := by
  induction cs with
  | nil => simp [Memory.insert, ha]
  | cons c cs ih =>
    simp only [List.all_cons, Bool.and_eq_true, decide_eq_true_eq] at h
    simp only [Memory.insert]
    split
    · simp [ha, h.1]; simpa using h.2
    · split
      · simp [ha]; simpa using h.2
      · simp only [List.all_cons, Bool.and_eq_true, decide_eq_true_eq]; exact ⟨h.1, ih h.2⟩

/-- A run of writes inside a buffer's size stays inside it. -/
theorem writeFrom_within (size : Nat) (bs : List Byte) (m : Memory) (a : Nat) (ha : a + bs.length ≤ size)
    (h : Safety.within size m = true) : Safety.within size (m.writeFrom a bs) = true := by
  induction bs generalizing m a with
  | nil => exact h
  | cons b bs ih =>
    simp only [List.length_cons] at ha
    exact ih _ _ (by omega) (within_insert size a b m.cells (by omega) h)

/-- After a frame is staged, STAGE reads back as its bytes: they are what the block writes carry (41 R72). -/
theorem stageFrame_holds (slots : List Slot) (s : State) :
    (stageFrame slots s).stage.readFrom 0 slots.length = some (slots.map Slot.val) := by
  have := readFrom_writeFrom s.stage 0 (slots.map Slot.val)
  simpa [stageFrame] using this

/-- What the block writer hands to the channel is the frame it staged (41 R72). -/
@[simp] theorem stagedBytes_stageFrame (slots : List Slot) (s : State) :
    stagedBytes slots.length (stageFrame slots s) = slots.map Slot.val := by
  rw [stagedBytes, stageFrame_holds]; rfl

/-- What print and clear send is what they filled LINE with, as long as LINE is as it was filled (42 R88, R90). -/
theorem lineBytes_fillLine (bytes : List Byte) (s : State) {t : State} (h : t.line = (fillLine bytes s).line) :
    lineBytes bytes.length t = bytes := by
  rw [lineBytes, h]
  have := readFrom_writeFrom s.line 0 bytes
  rw [fillLine, this]; rfl

/-- The block writer in one line. -/
theorem blockTransmit_eq (slots : List Slot) (s : State) :
    blockTransmit slots s = ((blockWrites (slots.map Slot.val) (stageFrame slots s)).1 == 0,
      dropStage (blockWrites (slots.map Slot.val) (stageFrame slots s)).2) := by
  simp only [blockTransmit, stagedBytes_stageFrame]

end Sys2Proof.Laws
end

