-- ==== Sys2Proof/Laws/Frame.lean ====
section
/-! SUPPORT. The bytes of a frame, the two senders piece by piece, and what `send` leaves alone. -/

namespace Sys2Proof.Laws

open Sys2Proof.Machine Sys2Proof.Safety

/-! ## Bytes -/

theorem fullSlots_length (c : ControlBits) (rs bl : Bool) (i : Nat) (p : List Byte) :
    (fullSlots c rs bl i p).length = 4 * p.length := by
  induction p generalizing i with
  | nil => rfl
  | cons b bs ih => simp [fullSlots, nibbleSlots, ih]; omega

/-- A frame has two TransportBytes if it is a startup frame, else four a payload byte. -/
theorem frameSlots_length (c : ControlBits) (mode : Mode) (bl : Bool) (p : List Byte) :
    (frameSlots c mode bl p).length = if mode = .startup then 2 else 4 * p.length := by
  cases mode <;> simp [frameSlots, fullSlots_length, nibbleSlots]

theorem hiNibble_toNat (b : Byte) : (hiNibble b).toNat = b.toNat / 16 := by
  have := b.isLt
  simp [hiNibble, Nat.shiftRight_eq_div_pow]; omega

theorem loNibble_toNat (b : Byte) : (loNibble b).toNat = b.toNat % 16 := by
  simp [loNibble]

theorem fullSlots_val (c : ControlBits) (rs bl : Bool) (i : Nat) (p : List Byte) :
    (fullSlots c rs bl i p).map Slot.val = p.flatMap (group c rs bl) := by
  induction p generalizing i with
  | nil => rfl
  | cons b bs ih => simp [fullSlots, nibbleSlots, group, ih, hiNibble_toNat, loNibble_toNat]

/-- The bytes a sender emits are the groups of 30 R46, or the nibble of R47. -/
theorem expand_eq_frameBytes (c : ControlBits) (mode : Mode) (bl : Bool) (p : List Byte) :
    expand c mode bl p = frameBytes c mode bl p := by
  cases mode <;> simp only [expand, frameSlots, frameBytes, fullSlots_val, Mode.rs]
  simp [nibbleSlots, pair, hiNibble_toNat]

/-! ## Raw writer -/

theorem rawWrites_keeps (sls : List Slot) (s : State) : OnlyTransport s (rawWrites sls s).2 := by
  induction sls generalizing s with
  | nil => exact OnlyTransport.refl s
  | cons sl rest ih => exact ((moveTo_keeps sl s).trans (chanWrite_keeps _ _)).trans (ih _)

/-- Every byte is attempted, in order. -/
theorem rawWrites_trace (sls : List Slot) (s : State) :
    (rawWrites sls s).2.trace = s.trace ++ sls.map fun sl => Event.write sl.val := by
  induction sls generalizing s with
  | nil => simp [rawWrites]
  | cons sl rest ih => simp [rawWrites, ih, (chanWrite_spec _ _).2.1]

/-- The coming answers are the ones after the frame's. -/
theorem boolAt_rawWrites (sls : List Slot) (s : State) (k : Nat) :
    boolAt (rawWrites sls s).2 k = boolAt s (sls.length + k) := by
  induction sls generalizing s k with
  | nil => simp [rawWrites]
  | cons sl rest ih =>
    simp only [rawWrites, ih, (chanWrite_spec _ _).2.2, List.length_cons]
    rw [boolAt_congr (s := s) (t := moveTo sl s) rfl rfl, Nat.add_right_comm]

theorem rawWrites_stage (sls : List Slot) (s : State) :
    (rawWrites sls s).2.stage = s.stage ∧ (rawWrites sls s).2.stageLen = s.stageLen := by
  induction sls generalizing s with
  | nil => exact ⟨rfl, rfl⟩
  | cons sl rest ih => simpa [rawWrites, chanWrite] using ih (chanWrite sl.val (moveTo sl s)).2

/-- The number of good answers among the frame's. -/
theorem rawWrites_count (sls : List Slot) (s : State) :
    (rawWrites sls s).1 = ((List.range sls.length).map (boolAt s)).count true := by
  induction sls generalizing s with
  | nil => rfl
  | cons sl rest ih =>
    have hb : ∀ k, boolAt (chanWrite sl.val (moveTo sl s)).2 k = boolAt s (k + 1) := fun k => by
      rw [(chanWrite_spec _ _).2.2, boolAt_congr (s := s) (t := moveTo sl s) rfl rfl]
    have h0 : (chanWrite sl.val (moveTo sl s)).1 = boolAt s 0 := by
      rw [(chanWrite_spec _ _).1, boolAt_congr (s := s) (t := moveTo sl s) rfl rfl]
    simp only [rawWrites, ih, h0, List.length_cons, List.range_succ_eq_map, List.map_cons, List.map_map,
      List.count_cons]
    congr 1
    · congr 1; exact List.map_congr_left fun k _ => hb k
    · cases boolAt s 0 <;> rfl

/-! ## Block writer -/

theorem blockWrites_keeps (bs : List Byte) (s : State) : OnlyTransport s (blockWrites bs s).2 := by
  simp only [blockWrites]
  split
  · exact chanBlockWrite_keeps _ _
  · exact (chanBlockWrite_keeps _ _).trans (chanBlockWrite_keeps _ _)

theorem blockWrites_stage (bs : List Byte) (s : State) :
    (blockWrites bs s).2.stage = s.stage ∧ (blockWrites bs s).2.stageLen = s.stageLen := by
  simp only [blockWrites]
  split <;> simp [chanBlockWrite]

/-- One or two block writes. -/
theorem blockWrites_trace (bs : List Byte) (s : State) :
    (blockWrites bs s).2.trace = s.trace ++ chunkEvents bs := by
  simp only [blockWrites, chunkEvents, Config.chunkMax]
  split <;> simp [(chanBlockWrite_spec _ _).2.1]

/-- The coming codes are the ones after the frame's. -/
theorem codeAt_blockWrites (bs : List Byte) (s : State) (k : Nat) :
    codeAt (blockWrites bs s).2 k = codeAt s (chunkCount bs.length + k) := by
  simp only [blockWrites, chunkCount, Config.chunkMax]
  split <;> simp only [(chanBlockWrite_spec _ _).2.2] <;> congr 1 <;> omega

/-- The combined code is zero when every call's is. -/
theorem blockWrites_zero (bs : List Byte) (s : State) :
    ((blockWrites bs s).1 == 0) = codesGood s 0 (chunkCount bs.length) := by
  simp only [blockWrites, chunkCount, codesGood, Config.chunkMax]
  split
  · simp [(chanBlockWrite_spec _ _).1, List.range_succ]
  · simp only [(chanBlockWrite_spec _ _).1, (chanBlockWrite_spec _ _).2.2, List.range_succ]
    simp [Bool.beq_eq_decide_eq, Nat.or_eq_zero_iff]

/-! ## send -/

theorem rawDelay_keeps (n : Nat) (s : State) : OnlyTransport s (rawDelay n s) := by
  simp only [rawDelay]; split <;> exact delay_keeps _ _

theorem blockTransmit_keeps (sls : List Slot) (s : State) : OnlyTransport s (blockTransmit sls s).2 :=
  ((stageFrame_keeps _ _).trans (blockWrites_keeps _ _)).trans (dropStage_keeps _)

theorem transmit_keeps (sls : List Slot) (s : State) : OnlyTransport s (transmit sls s).2 := by
  simp only [transmit]
  split
  · exact rawWrites_keeps _ _
  · exact blockTransmit_keeps _ _

/-- `send` writes nothing but the trace, the channel's answers, STAGE and the sequencer (41 R65). -/
theorem send_keeps (mode : Mode) (bl : Bool) (p : List Byte) (n : Nat) (s : State) :
    OnlyTransport s (send mode bl p n s).2 := by
  simp only [send]
  refine OnlyTransport.trans ?_ (frameDone_keeps _)
  split
  · exact (rawWrites_keeps _ _).trans (rawDelay_keeps _ _)
  · exact (blockTransmit_keeps _ _).trans ((delay_keeps _ _).trans (delay_keeps _ _))

theorem position_keeps (x y : Int) (s : State) : OnlyTransport s (position x y s).2 := send_keeps _ _ _ _ s

end Sys2Proof.Laws
end

