-- ==== Sys2Proof/Laws/PerInstr.lean ====
section
/-! SUPPORT. Facts about every instruction as syntax, one lemma per constructor. -/

namespace Sys2Proof.Laws.EncodingFits

/-- The width of a format's words: 32 bits for a host command, 4 for a startup nibble, 8 for the others (the "format" and
"encoding" columns of spec/opcode_table.json). -/
def width : Format → Nat
  | .host32 => 32
  | .tbyte8 => 8
  | .lcd4 => 4
  | .lcd8 => 8
  | .lcd8data => 8

/-- The word of an instruction has no bit above its format's width. -/
def Statement (i : Instr) : Prop := (encode i).toNat < 2 ^ width i.format

theorem hostFits (i : Instr) (h : i.format = .host32) : Statement i := by
  rw [Statement, h]; exact (encode i).isLt

theorem wireFits {i : Instr} {bits n : Nat} (h : encode i = wireWord bits) (hn : 2 ^ width i.format = n) (hb : bits < n)
    (h32 : n ≤ 2 ^ 32) : Statement i := by
  rw [Statement, h, hn, wireWord_toNat (by omega)]; exact hb

theorem openDev (p : BitVec 8) (a : BitVec 7) : Statement (.openDev p a) := hostFits _ rfl

theorem init (on : Bool) (h w : BitVec 8) : Statement (.init on h w) := hostFits _ rfl

theorem goto (y x : BitVec 8) : Statement (.goto y x) := hostFits _ rfl

theorem print (l y x : BitVec 8) : Statement (.print l y x) := hostFits _ rfl

theorem clearAll (l : BitVec 8) : Statement (.clearAll l) := hostFits _ rfl

theorem clearRow (l : BitVec 8) : Statement (.clearRow l) := hostFits _ rfl

theorem backlight (on : Bool) : Statement (.backlight on) := hostFits _ rfl

theorem control (b d c k : Bool) : Statement (.control b d c k) := hostFits _ rfl

theorem close : Statement (.close) := hostFits _ rfl

theorem tbyte (r e b : Bool) (n : BitVec 4) : Statement (.tbyte r e b n) := by
  refine wireFits (n := 256) rfl rfl ?_ (by decide); have := r.toNat_lt; have := e.toNat_lt; have := b.toNat_lt; have := n.isLt; omega

theorem lcdWake : Statement (.lcdWake) := by
  refine wireFits (n := 16) rfl rfl ?_ (by decide); omega

theorem lcdMode4 : Statement (.lcdMode4) := by
  refine wireFits (n := 16) rfl rfl ?_ (by decide); omega

theorem lcdFunctionSet : Statement (.lcdFunctionSet) := by
  refine wireFits (n := 256) rfl rfl ?_ (by decide); omega

theorem lcdClearDisplay : Statement (.lcdClearDisplay) := by
  refine wireFits (n := 256) rfl rfl ?_ (by decide); omega

theorem lcdEntryMode : Statement (.lcdEntryMode) := by
  refine wireFits (n := 256) rfl rfl ?_ (by decide); omega

theorem lcdDisplayControl (d c k : Bool) : Statement (.lcdDisplayControl d c k) := by
  refine wireFits (n := 256) rfl rfl ?_ (by decide); have := d.toNat_lt; have := c.toNat_lt; have := k.toNat_lt; omega

theorem lcdBacklightCarrier : Statement (.lcdBacklightCarrier) := by
  refine wireFits (n := 256) rfl rfl ?_ (by decide); omega

theorem lcdSetAddress (o : BitVec 7) : Statement (.lcdSetAddress o) := by
  refine wireFits (n := 256) rfl rfl ?_ (by decide); have := o.isLt; omega

theorem lcdData (c : BitVec 8) : Statement (.lcdData c) := by
  refine wireFits (n := 256) rfl rfl ?_ (by decide); have := c.isLt; omega

end Sys2Proof.Laws.EncodingFits
end

