-- ==== Sys2Proof/Laws/Placed.lean ====
section
/-! SUPPORT. A table word that is no instruction is never run as one: where `State.withFetchWord` places it, the next step
refuses it. [log 28] -/

namespace Sys2Proof.Machine

/-- What `firstFormat` finds is a format in which the word is an instruction. -/
theorem firstFormat_decodes {w : Word} {fs : List Format} {f : Format} (h : firstFormat w fs = some f) :
    ∃ i, decode f w = .ok i := by
  induction fs with
  | nil => simp [firstFormat] at h
  | cons g gs ih =>
    cases hd : decode g w with
    | ok i => simp only [firstFormat, hd, Option.some.injEq] at h; exact h ▸ ⟨i, hd⟩
    | bad e => simp only [firstFormat, hd] at h; exact ih h

/-- A word that is no instruction has no format, and one that has no format is none. -/
theorem decodeTableWord_eq_none_iff (nbits w : Nat) : decodeTableWord nbits w = none ↔ tableFormat nbits w = none := by
  unfold decodeTableWord
  cases hf : tableFormat nbits w with
  | none => simp
  | some f =>
    unfold tableFormat at hf
    split at hf
    · obtain ⟨i, hi⟩ := firstFormat_decodes hf; simp [hi, Decoded.instr?]
    · cases hf

/-- With one format to try, a word that has none is no instruction of that one. -/
theorem decode_bad_of_firstFormat {w : Word} {f : Format} (h : firstFormat w [f] = none) : ∃ e, decode f w = .bad e := by
  cases hd : decode f w with
  | ok i => simp [firstFormat, hd] at h
  | bad e => exact ⟨e, rfl⟩

/-- A word too wide for a nibble is none of init's. -/
theorem decode_lcd4_bad {w : Word} (h : 16 ≤ w.toNat) : ∃ e, decode .lcd4 w = .bad e := by
  refine ⟨.tooWide, if_neg fun hz => ?_⟩
  have hn := congrArg BitVec.toNat hz
  simp only [Decode.field, BitVec.extractLsb'_toNat, Nat.shiftRight_eq_div_pow, BitVec.toNat_ofNat] at hn
  have := w.isLt
  omega

/-- Where and as what a word that has no format is placed, it is no instruction. -/
theorem decode_stray_bad {nbits w : Nat} (h : tableFormat nbits w = none) :
    ∃ e, decode (strayFormat nbits) (strayWord nbits w) = .bad e := by
  by_cases h32 : nbits = 32
  · subst h32
    by_cases hw : w < 2 ^ 32
    · simp only [tableFormat, hw, if_true, tableFormats] at h
      rw [show strayWord 32 w = BitVec.ofNat 32 w by rw [strayWord, if_pos (.inl rfl), Nat.min_eq_left (by omega)]]
      exact decode_bad_of_firstFormat h
    · rw [show strayWord 32 w = 0xFFFFFFFF#32 by rw [strayWord, if_pos (.inl rfl), Nat.min_eq_right (by omega)]]
      exact ⟨.reservedOp, by decide⟩
  · rw [show strayFormat nbits = .lcd4 from if_neg h32]
    by_cases h4 : nbits = 4
    · subst h4
      by_cases hw : w < 2 ^ 4
      · simp only [tableFormat, hw, if_true, tableFormats] at h
        rw [show strayWord 4 w = BitVec.ofNat 32 w by rw [strayWord, if_pos (.inr rfl), Nat.min_eq_left (by omega)]]
        exact decode_bad_of_firstFormat h
      · apply decode_lcd4_bad
        rw [strayWord, if_pos (.inr rfl), BitVec.toNat_ofNat]
        omega
    · rw [show strayWord nbits w = 0xFFFFFFFF#32 from if_neg (by omega)]
      exact ⟨.tooWide, by decide⟩

/-- A table word that is no instruction is placed as a stray word. -/
theorem withFetchWord_stray {nbits w : Nat} (s : State) (h : decodeTableWord nbits w = none) :
    s.withFetchWord nbits w = placeWord (strayFormat nbits) (strayWord nbits w) s := by
  rw [decodeTableWord_eq_none_iff] at h
  simp only [State.withFetchWord, h]

/-- A table word that is no instruction, placed in any state: of 32 bits, the step refuses it as an illegal command
(30 R56); of any other width, it is refused by name. -/
theorem step_withFetchWord_stray {nbits w : Nat} (s : State) (h : decodeTableWord nbits w = none) :
    if nbits = 32 then step (s.withFetchWord nbits w)
      = .next (raiseRefused .illegalCommand { s with cmd := strayWord nbits w })
    else ∃ e, step (s.withFetchWord nbits w) = .refused (.notAWireWord e) := by
  rw [withFetchWord_stray s h]
  obtain ⟨e, he⟩ := decode_stray_bad ((decodeTableWord_eq_none_iff nbits w).1 h)
  split
  · next hn =>
    simp only [strayFormat, hn, if_true] at he ⊢
    simp only [step, placeWord, fetch, he, illegalWord, latch]
  · next hn =>
    simp only [strayFormat, hn, if_false] at he ⊢
    exact ⟨e, by simp only [step, placeWord, fetch, he, illegalWord]⟩

end Sys2Proof.Machine
end

