-- ==== Sys2Proof/Laws/Send.lean ====
section
/-! SUPPORT. One specification of `send`, which the meanings' proofs cite: its answer, its events, what comes after it on the
channel, what it leaves in STAGE, and where the sequencer goes. -/

namespace Sys2Proof.Laws

open Sys2Proof.Machine Sys2Proof.Safety

theorem frameBytes_length (c : ControlBits) (mode : Mode) (bl : Bool) (p : List Byte) :
    (frameBytes c mode bl p).length = if mode = .startup then 2 else 4 * p.length := by
  rw [← expand_eq_frameBytes, expand, List.length_map, frameSlots_length]

/-- The bytes of a frame's slots are the frame's bytes. -/
theorem frameSlots_val (c : ControlBits) (mode : Mode) (bl : Bool) (p : List Byte) :
    (frameSlots c mode bl p).map Slot.val = frameBytes c mode bl p := expand_eq_frameBytes c mode bl p

/-- All of `n` answers are good exactly when their count is `n` (41 R69). -/
theorem count_writesGood (s : State) (n : Nat) :
    (((List.range n).map (boolAt s)).count true == n) = writesGood s 0 n := by
  have h := @List.count_eq_length Bool _ _ true ((List.range n).map (boolAt s))
  simp only [List.length_map, List.length_range, List.mem_map, forall_exists_index, and_imp,
    forall_apply_eq_imp_iff₂] at h
  rw [Bool.eq_iff_iff, beq_iff_eq, h, writesGood, List.all_eq_true]
  refine forall_congr' fun k => ?_
  rw [Nat.zero_add]
  exact imp_congr_right fun _ => eq_comm

theorem rawTransmit_answer (sls : List Slot) (s : State) : (rawTransmit sls s).1 = writesGood s 0 sls.length := by
  rw [← count_writesGood, ← rawWrites_count]; rfl

theorem rawDelay_trace (n : Nat) (s : State) :
    (rawDelay n s).trace = s.trace ++ [.delay (if n = 0 then s.straps.tDefaultUs else n)] := by
  simp only [rawDelay]; split <;> simp_all

/-- What `send` answers: the frame is answered good (41 R69, R74). -/
theorem send_answer (mode : Mode) (bl : Bool) (p : List Byte) (n : Nat) (s : State) :
    (send mode bl p n s).1 = frameGood s 0 0 (if mode = .startup then 2 else 4 * p.length) := by
  rw [← frameBytes_length s.straps.bits mode bl p, ← frameSlots_val]
  rcases h : s.straps.transport
  · simp only [send, h, rawSend, frameGood, rawTransmit_answer, List.length_map]
  · simp only [send, h, blockSend, blockTransmit_eq, frameGood, blockWrites_zero, codesGood]
    congr 1

/-- The events of `send` (41 R68, R70, R72, R73, R75). -/
theorem send_trace (mode : Mode) (bl : Bool) (p : List Byte) (n : Nat) (s : State) :
    (send mode bl p n s).2.trace = s.trace ++ frameEvents s.straps mode bl p n := by
  simp only [frameEvents, ← frameSlots_val]
  rcases h : s.straps.transport
  · have hs := (rawWrites_keeps (frameSlots s.straps.bits mode bl p) s).straps
    simp [send, h, rawSend, rawTransmit, rawDelay_trace, rawWrites_trace, hs, byteEvents, settleEvents, Function.comp_def]
  · have hs := ((stageFrame_keeps (frameSlots s.straps.bits mode bl p) s).trans
      (blockWrites_keeps ((frameSlots s.straps.bits mode bl p).map Slot.val) _)).straps
    simp [send, h, blockSend, blockTransmit_eq, blockDelay, blockWrites_trace, hs, byteEvents, settleEvents]

/-- The coming answers after a frame of the raw writer. -/
theorem boolAt_send (mode : Mode) (bl : Bool) (p : List Byte) (n : Nat) (s : State) (k : Nat)
    (h : s.straps.transport = .raw) :
    boolAt (send mode bl p n s).2 k = boolAt s ((if mode = .startup then 2 else 4 * p.length) + k) := by
  rw [← frameSlots_length s.straps.bits mode bl p, ← boolAt_rawWrites]
  have hd : ∀ t : State, boolAt (frameDone (rawDelay n t)) k = boolAt t k := fun t => by
    simp only [rawDelay]; split <;> exact boolAt_congr rfl rfl k
  simp only [send, h, rawSend, rawTransmit, hd]

/-- The coming codes after a frame of the block writer. -/
theorem codeAt_send (mode : Mode) (bl : Bool) (p : List Byte) (n : Nat) (s : State) (k : Nat)
    (h : s.straps.transport = .block) :
    codeAt (send mode bl p n s).2 k
      = codeAt s (chunkCount (if mode = .startup then 2 else 4 * p.length) + k) := by
  rw [← frameBytes_length s.straps.bits mode bl p, ← frameSlots_val]
  have hc := codeAt_blockWrites ((frameSlots s.straps.bits mode bl p).map Slot.val)
    (stageFrame (frameSlots s.straps.bits mode bl p) s) k
  rw [codeAt_congr (s := s) (t := stageFrame _ s) rfl rfl] at hc
  rw [← hc]
  have hd : ∀ t : State, codeAt (frameDone (blockDelay n (dropStage t))) k = codeAt t k := fun t => codeAt_congr rfl rfl k
  simp only [send, h, blockSend, blockTransmit_eq, hd]

/-- A later frame of the same command: its answers are the ones after this frame's. -/
theorem frameGood_send (mode : Mode) (bl : Bool) (p : List Byte) (n : Nat) (s : State) (w c m : Nat) :
    frameGood (send mode bl p n s).2 w c m
      = frameGood s ((if mode = .startup then 2 else 4 * p.length) + w)
          (chunkCount (if mode = .startup then 2 else 4 * p.length) + c) m := by
  simp only [frameGood, (send_keeps mode bl p n s).straps]
  rcases h : s.straps.transport
  · simp only [writesGood, boolAt_send mode bl p n s _ h, Nat.add_assoc]
  · simp only [codesGood, codeAt_send mode bl p n s _ h, Nat.add_assoc]

/-- What `send` leaves in STAGE (41 R72). -/
theorem send_stage (mode : Mode) (bl : Bool) (p : List Byte) (n : Nat) (s : State)
    (hn : s.straps.transport = .block → (frameBytes s.straps.bits mode bl p).length ≤ 64) :
    StageAfter (if mode = .startup then 2 else 4 * p.length) s (send mode bl p n s).2 := by
  rw [StageAfter, ← frameBytes_length s.straps.bits mode bl p]
  rcases h : s.straps.transport
  · have hs := rawWrites_stage (frameSlots s.straps.bits mode bl p) s
    simp only [send, h, rawSend, rawTransmit, KeepsStage, frameDone_fields, rawDelay]
    split <;> simp [hs]
  · have hl := hn h
    rw [← frameSlots_val] at hl ⊢
    have hs := blockWrites_stage ((frameSlots s.straps.bits mode bl p).map Slot.val)
      (stageFrame (frameSlots s.straps.bits mode bl p) s)
    simp only [List.length_map] at hl ⊢
    simp only [send, h, blockSend, blockTransmit_eq, blockDelay, frameDone_fields, delay_fields, dropStage_fields, hs,
      stageFrame_fields, BitVec.toNat_ofNat]
    omega

/-- A frame started with the sequencer idle leaves it idle. -/
theorem foldl_place_idle (sls : List Slot) :
    sls.foldl (fun q sl => Seq.place sl.byte sl.nib sl.en q) .idle = .idle := by
  induction sls with
  | nil => rfl
  | cons sl rest ih => exact ih

theorem rawWrites_seq_idle (sls : List Slot) (s : State) (h : s.seq = .idle) : (rawWrites sls s).2.seq = .idle := by
  induction sls generalizing s with
  | nil => exact h
  | cons sl rest ih => exact ih _ (by simp [chanWrite, h, Seq.place])

theorem send_seq_idle (mode : Mode) (bl : Bool) (p : List Byte) (n : Nat) (s : State) (h : s.seq = .idle) :
    (send mode bl p n s).2.seq = .idle := by
  have hb : ∀ bs t, (blockWrites bs t).2.seq = t.seq := fun bs t => by
    simp only [blockWrites]; split <;> simp [chanBlockWrite]
  simp only [send]
  split
  · have := rawWrites_seq_idle (frameSlots s.straps.bits mode bl p) s h
    simp only [rawSend, rawTransmit, frameDone_fields, rawDelay]
    split <;> simp [this, Seq.nextSend]
  · simp [blockSend, blockTransmit_eq, blockDelay, hb, h, foldl_place_idle, Seq.nextSend]

/-! ## Operations over `send` -/

theorem runSteps_keeps (on : Bool) (sts : List InitStep) (s : State) : OnlyTransport s (runSteps on sts s).2 := by
  induction sts generalizing s with
  | nil => exact OnlyTransport.refl s
  | cons st rest ih => exact (send_keeps _ _ _ _ s).trans (ih _)

/-- A refused command: the first failing check's reason, and nothing run. -/
theorem admitThen_refused {cs : List Check} {r : Reason} (h : firstFailing cs = some r) (s : State)
    (run : State → Host.Outcome State Fault Refusal) : admitThen cs s run = .next (raiseRefused r s) := by
  simp [admitThen, h]

/-- An admitted command runs. -/
theorem admitThen_admitted {cs : List Check} (h : firstFailing cs = none) (s : State)
    (run : State → Host.Outcome State Fault Refusal) : admitThen cs s run = run s := by
  simp [admitThen, h]

/-- No check fails when all hold. -/
theorem firstFailing_none {cs : List Check} : firstFailing cs = none ↔ ∀ c ∈ cs, c.1 = true := by
  induction cs with
  | nil => simp [firstFailing]
  | cons c cs ih => simp only [firstFailing]; split <;> simp_all

/-- With a session open a wire row runs. -/
theorem withSession_opened {s : State} (h : s.session = .opened) (run : State → State) :
    withSession s run = .next (run s) := by
  simp [withSession, h]

/-- With no session a wire row stops. -/
theorem withSession_closed {s : State} (h : s.session = .closed) (run : State → State) :
    withSession s run = .refused .wireNoSession := by
  simp [withSession, h]

theorem wireFrame_keeps (mode : Mode) (b : Byte) (bl : Bool) (n : Nat) (s : State) :
    OnlyTransport s (wireFrame mode b bl n s) := by
  simp only [wireFrame]; split <;> exact send_keeps _ _ _ _ s

end Sys2Proof.Laws
end

