-- ==== Sys2Proof/Tests/Slice0.lean ====
section
/-! SUPPORT. The model's own tests. Expected results are words and events of spec/95_test_vectors.md (V1 to V37) or written out
by hand from the encodings of spec/30_encoding.md; after them, one witness for the hypotheses of each statement. -/

namespace Sys2Proof.Tests

set_option maxRecDepth 20000

open Sys2Proof.Machine Sys2Proof.Safety

/-! ## Helpers -/

/-- An engine's parameters with the default control bits and 777 for the default delay. -/
def strapsOf (t : Transport) : Straps := ⟨t, 777, ControlBits.default⟩

/-- Right after reset, with good answers to come. -/
def closedState (t : Transport) : State :=
  { State.resetWith (strapsOf t) with boolAnswers := List.replicate 80 true, codeAnswers := List.replicate 12 0 }

/-- A session is open and init has not run. -/
def openState (t : Transport) : State := { closedState t with session := .opened, path := 1, addr := 0x3F }

/-- Ready, with a geometry and the backlight on. -/
def readyState (t : Transport) (w : BitVec 7) (h : BitVec 3) : State :=
  { openState t with phase := .ready, width := w, height := h, bl := true, disp := true }

/-- A state with these bytes in TEXT. -/
def withText (bs : List Byte) (s : State) : State := { s with text := s.text.writeFrom 0 bs }

/-- The outcome is a next state with the property. -/
def nextIs (o : Host.Outcome State Fault Refusal) (p : State → Bool) : Bool :=
  match o with
  | .next t => p t
  | .fault _ => false
  | .refused _ => false

/-- The outcome is the refusal. -/
def refusedIs (o : Host.Outcome State Fault Refusal) (r : Refusal) : Bool :=
  match o with
  | .next _ => false
  | .fault _ => false
  | .refused q => q == r

/-- The outcome is the fault. -/
def faultIs (o : Host.Outcome State Fault Refusal) (f : Fault) : Bool :=
  match o with
  | .next _ => false
  | .fault g => g == f
  | .refused _ => false

/-- The outcome is a next state with this trace and response word. -/
def gives (o : Host.Outcome State Fault Refusal) (trace : List Event) (q : BitVec 9) : Bool :=
  nextIs o fun t => t.trace == trace && t.resp.word == q && t.seq == .idle

/-! ## Well-formedness -/

theorem test_wf_refuses_clearAll_of_a_row : Instr.wf (.clearAll 0x05) = false := by decide
theorem test_wf_refuses_clearRow_of_a_negative_line : Instr.wf (.clearRow 0xFF) = false := by decide
theorem test_wf_takes_both_clears : (Instr.wf (.clearAll 0x80) && Instr.wf (.clearRow 0x7F)) = true := by decide

/-! ## Decoding: every constructor, from words written out bit by bit (30 R53 and the table's "encoding" column) -/

theorem test_decode_open : decode .host32 0b0000_0000_0000_0000_00000010_0_0100111 = .ok (.openDev 2 0x27) := by decide
theorem test_decode_init : decode .host32 0b0001_0000000_0000_1_00000100_00010100 = .ok (.init true 4 20) := by decide
theorem test_decode_goto : decode .host32 0b0010_0000_00000000_11111111_00000010 = .ok (.goto 0xFF 2) := by decide
theorem test_decode_print : decode .host32 0b0011_0000_00001011_00000011_00000100 = .ok (.print 11 3 4) := by decide
theorem test_decode_clearAll : decode .host32 0b0100_0000_00000000_00000000_10000000 = .ok (.clearAll 0x80) := by decide
theorem test_decode_clearRow : decode .host32 0b0100_0000_00000000_00000000_00001001 = .ok (.clearRow 9) := by decide
theorem test_decode_backlight : decode .host32 0b0101_0000_00000000_00000000_00000001 = .ok (.backlight true) := by decide
theorem test_decode_control :
    decode .host32 0b0110_0000_00000000_00000000_0000_1_0_1_0 = .ok (.control true false true false) := by decide
theorem test_decode_close : decode .host32 0b0111_0000_00000000_00000000_00000000 = .ok .close := by decide
theorem test_decode_tbyte : decode .tbyte8 0b1_0_0_1_0101 = .ok (.tbyte true false true 5) := by decide
theorem test_decode_lcdWake : decode .lcd4 0b0011 = .ok .lcdWake := by decide
theorem test_decode_lcdMode4 : decode .lcd4 0b0010 = .ok .lcdMode4 := by decide
theorem test_decode_lcdFunctionSet : decode .lcd8 0b00101000 = .ok .lcdFunctionSet := by decide
theorem test_decode_lcdClearDisplay : decode .lcd8 0b00000001 = .ok .lcdClearDisplay := by decide
theorem test_decode_lcdEntryMode : decode .lcd8 0b00000110 = .ok .lcdEntryMode := by decide
theorem test_decode_lcdDisplayControl :
    decode .lcd8 0b00001_1_0_1 = .ok (.lcdDisplayControl true false true) := by decide
theorem test_decode_lcdBacklightCarrier : decode .lcd8 0b00000000 = .ok .lcdBacklightCarrier := by decide
theorem test_decode_lcdSetAddress : decode .lcd8 0b1_1000101 = .ok (.lcdSetAddress 0x45) := by decide
theorem test_decode_lcdData : decode .lcd8data 0b01010100 = .ok (.lcdData 0x54) := by decide

/-- V27, V29: the words the spec lists as no command. -/
theorem test_decode_rejects_by_name :
    decode .host32 0x80000000 = .bad .reservedOp ∧ decode .host32 0xF0001234 = .bad .reservedOp ∧
    decode .host32 0x000001BF = .bad .mustBeZero ∧ decode .host32 0x20010000 = .bad .mustBeZero ∧
    decode .host32 0x10020210 = .bad .mustBeZero ∧ decode .host32 0x50000002 = .bad .mustBeZero ∧
    decode .host32 0x60000010 = .bad .mustBeZero ∧ decode .host32 0x40000100 = .bad .mustBeZero ∧
    decode .host32 0x70000001 = .bad .mustBeZero ∧ decode .tbyte8 0x40 = .bad .readBit ∧
    decode .lcd4 0x4 = .bad .notAStartupNibble ∧ decode .lcd8 0x02 = .bad .notACommandByte ∧
    decode .lcd8data 0x100 = .bad .tooWide := by decide

/-- The entry by table words: a host word, and the wire rows with a byte of their own (log 16). -/
theorem test_decodeTableWord :
    decodeTableWord 32 0x40000005 = some (.clearRow 5) ∧ decodeTableWord 8 0x03 = some .lcdWake ∧
    decodeTableWord 8 0x28 = some .lcdFunctionSet ∧ decodeTableWord 8 0x0C = some (.lcdDisplayControl true false false) ∧
    decodeTableWord 8 0x80 = some (.lcdSetAddress 0) ∧ decodeTableWord 8 0x31 = some (.tbyte false true true 1) ∧
    decodeTableWord 8 0x54 = some (.lcdData 0x54) ∧ decodeTableWord 32 0x80000000 = none := by decide

/-! ## Operations (95_test_vectors.md) -/

/-- V27: both answers good. -/
theorem test_open_good :
    gives (exec (.openDev 1 0x3F) (closedState .raw)) [.chanOpen 1, .bind 0x3F] 0x001 = true := by decide

/-- V27: the bind fails, the channel is released. -/
theorem test_open_bind_fails :
    gives (exec (.openDev 1 0x3F) { closedState .raw with boolAnswers := [true, false] })
      [.chanOpen 1, .bind 0x3F, .release] 0x00A = true := by decide

/-- V15, block: the whole trace of init. -/
theorem test_init_block :
    gives (exec (.init true 2 16) (openState .block))
      [.blockWrite [0x23, 0x03], .delay 15000, .delay 777, .blockWrite [0x23, 0x03], .delay 4100, .delay 777,
       .blockWrite [0x23, 0x03], .delay 100, .delay 777, .blockWrite [0x22, 0x02], .delay 4100, .delay 777,
       .blockWrite [0x22, 0x02, 0x28, 0x08], .delay 100, .delay 777, .blockWrite [0x20, 0x00, 0x28, 0x08], .delay 100,
       .delay 777, .blockWrite [0x20, 0x00, 0x21, 0x01], .delay 100, .delay 777, .blockWrite [0x20, 0x00, 0x26, 0x06],
       .delay 100, .delay 777, .blockWrite [0x30, 0x10, 0x3C, 0x1C], .delay 100, .delay 777] 0x001 = true := by decide

/-- V16: the sixth write fails; all 28 writes and 9 delays are made, the phase stays, the geometry is written. -/
theorem test_init_raw_fails :
    nextIs (exec (.init true 2 16)
        { openState .raw with boolAnswers := List.replicate 5 true ++ [false] ++ List.replicate 22 true }) (fun t =>
      t.trace.length == 37 && t.resp.word == 0x012 && t.phase == .uninitialized && t.width == 16 && t.height == 2 &&
        t.bl && t.disp && !t.cur && !t.blink && !t.fault) = true := by decide

/-- V18: a column past the width is clamped to the width, not to the width less one. -/
theorem test_goto_clamps_to_the_width :
    gives (exec (.goto 0 21) { readyState .raw 16 2 with bl := false })
      [.write 0x29, .write 0x09, .write 0x20, .write 0x00, .delay 777] 0x001 = true := by decide

/-- V18: the sum 0x100 is refused. -/
theorem test_goto_overflows : gives (exec (.goto 3 32) (readyState .raw 32 2)) [] 0x123 = true := by decide

/-- V23 (b): the data frame's third write fails; every byte is sent all the same. -/
theorem test_print_data_fails :
    gives (exec (.print 2 1 3) (withText [0x48, 0x69]
        { readyState .raw 16 2 with boolAnswers := List.replicate 6 true ++ [false] ++ List.replicate 5 true }))
      [.write 0x3C, .write 0x1C, .write 0x33, .write 0x13, .delay 777, .write 0xB4, .write 0x94, .write 0xB8, .write 0x98,
       .write 0xB6, .write 0x96, .write 0xB9, .write 0x99, .delay 777] 0x00E = true := by decide

/-- V12: nine characters over the block writer go as 32 and 4. -/
theorem test_print_block_chunks :
    gives (exec (.print 9 1 0) (withText [0x41, 0x42, 0x43, 0x44, 0x45, 0x46, 0x47, 0x48, 0x49] (readyState .block 16 2)))
      [.blockWrite [0x3C, 0x1C, 0x30, 0x10], .delay 0, .delay 777,
       .blockWrite [0xB4, 0x94, 0xB1, 0x91, 0xB4, 0x94, 0xB2, 0x92, 0xB4, 0x94, 0xB3, 0x93, 0xB4, 0x94, 0xB4, 0x94,
         0xB4, 0x94, 0xB5, 0x95, 0xB4, 0x94, 0xB6, 0x96, 0xB4, 0x94, 0xB7, 0x97, 0xB4, 0x94, 0xB8, 0x98],
       .blockWrite [0xB4, 0x94, 0xB9, 0x99], .delay 0, .delay 777] 0x001 = true := by decide

/-- 10_state R24 (log 6). -/
theorem test_print_stops_on_unwritten_text :
    faultIs (exec (.print 2 0 0) (withText [0x48] (readyState .raw 16 2))) .textUnspecified = true := by decide

/-- V24. -/
theorem test_clearAll :
    gives (exec (.clearAll 0x80) (readyState .raw 16 2))
      [.write 0x30, .write 0x10, .write 0x31, .write 0x11, .delay 2000] 0x001 = true := by decide

/-- V24: line 5 of two rows clears row 1; positioning, 16 spaces, two delays. -/
theorem test_clearRow_clamps :
    nextIs (exec (.clearRow 5) (readyState .raw 16 2)) (fun t =>
      t.trace.take 5 == [.write 0x3C, .write 0x1C, .write 0x30, .write 0x10, .delay 777] && t.trace.length == 70 &&
        (t.trace.drop 65) == [.write 0xB2, .write 0x92, .write 0xB0, .write 0x90, .delay 777] &&
        t.lineLen == 16 && t.resp.word == 0x001) = true := by decide

/-- V25: the frame fails and the flag stands. -/
theorem test_backlight_fails_and_stands :
    nextIs (exec (.backlight false) { readyState .raw 16 2 with boolAnswers := [false, true, true, true] }) (fun t =>
      t.trace == [.write 0x20, .write 0x00, .write 0x20, .write 0x00, .delay 777] && t.resp.word == 0x00E && !t.bl)
      = true := by decide

/-- V26. -/
theorem test_control :
    nextIs (exec (.control false true false true) (readyState .raw 16 2)) (fun t =>
      t.trace == [.write 0x20, .write 0x00, .write 0x2D, .write 0x0D, .delay 777] && t.resp.word == 0x001 && !t.bl &&
        t.disp && !t.cur && t.blink) = true := by decide

/-- V28. -/
theorem test_close_releases :
    gives (exec .close (readyState .block 16 2)) [.blockWrite [0x20, 0x00, 0x20, 0x00], .delay 0, .delay 777, .release] 0x001
      = true := by decide

/-- V28. -/
theorem test_close_without_session : gives (exec .close (closedState .raw)) [] 0x001 = true := by decide

/-- V29, the order of the checks. -/
theorem test_refusals_in_order :
    gives (exec (.init true 3 0) (closedState .raw)) [] 0x043 = true ∧
    gives (exec (.goto 0 0xFF) (openState .raw)) [] 0x083 = true ∧
    gives (exec (.print 0 0 0xFF) (readyState .raw 16 2)) [] 0x0E3 = true ∧
    gives (exec (.print 20 3 32) (readyState .block 32 4)) [] 0x123 = true ∧
    gives (exec (.print 20 0 0) (readyState .block 20 4)) [] 0x143 = true ∧
    gives (exec (.init true 2 16) (readyState .raw 16 2)) [] 0x0A3 = true ∧
    gives (exec (.openDev 2 0x27) (openState .raw)) [] 0x063 = true := by decide

/-- V2: a TransportByte. -/
theorem test_tbyte :
    nextIs (exec (.tbyte true true true 5) (openState .raw)) (fun t => t.trace == [.write 0xB5]) = true := by decide

/-- V15 step 3, from the sequencer's place there. -/
theorem test_wake_inside_init :
    nextIs (exec .lcdWake { openState .raw with seq := .running .init 3 0 .hi true }) (fun t =>
      t.trace == [.write 0x23, .write 0x03, .delay 100] && t.seq == .running .init 4 0 .hi true) = true := by decide

/-- V15 steps 4, 5, 8. -/
theorem test_init_rows :
    nextIs (exec .lcdMode4 (openState .raw)) (fun t => t.trace == [.write 0x22, .write 0x02, .delay 4100]) = true ∧
    nextIs (exec .lcdFunctionSet (openState .block)) (fun t =>
      t.trace == [.blockWrite [0x22, 0x02, 0x28, 0x08], .delay 100, .delay 777]) = true ∧
    nextIs (exec .lcdEntryMode (openState .raw)) (fun t =>
      t.trace == [.write 0x20, .write 0x00, .write 0x26, .write 0x06, .delay 100]) = true := by decide

/-- V24, V26, V25, V19 and V20, by their rows. -/
theorem test_other_rows :
    nextIs (exec .lcdClearDisplay (readyState .raw 16 2)) (fun t =>
      t.trace == [.write 0x30, .write 0x10, .write 0x31, .write 0x11, .delay 2000]) = true ∧
    nextIs (exec (.lcdDisplayControl true true false) (readyState .raw 16 2)) (fun t =>
      t.trace == [.write 0x30, .write 0x10, .write 0x3E, .write 0x1E, .delay 777]) = true ∧
    nextIs (exec .lcdBacklightCarrier (readyState .raw 16 2)) (fun t =>
      t.trace == [.write 0x30, .write 0x10, .write 0x30, .write 0x10, .delay 777]) = true ∧
    nextIs (exec (.lcdSetAddress 0x45) (readyState .raw 16 2)) (fun t =>
      t.trace == [.write 0x3C, .write 0x1C, .write 0x35, .write 0x15, .delay 777]) = true ∧
    nextIs (exec (.lcdData 0x54) (readyState .block 16 2)) (fun t =>
      t.trace == [.blockWrite [0xB5, 0x95, 0xB4, 0x94], .delay 0, .delay 777]) = true := by decide

/-- 20 R26. -/
theorem test_wire_row_without_session :
    refusedIs (exec (.lcdData 0x54) (closedState .raw)) .wireNoSession = true := by decide

/-- V4: other places for the control bits. -/
theorem test_pack_at_other_places :
    pack ⟨.p7, .p6, .p5, .p4⟩ true true 5 true = 0xD5 ∧ pack ⟨.p7, .p6, .p5, .p4⟩ false false 3 true = 0x43 := by decide

/-- V29: a reserved word, through a step: the latch holds it. -/
theorem test_step_refuses_reserved_word :
    nextIs (step { closedState .raw with inbox := [.word .host32 0x80000000] }) (fun t =>
      t.resp.word == 0x023 && t.fault && t.cmd == 0x80000000 && t.trace == [] && t.inbox == []) = true := by decide

/-- The three host actions through a step: TEXT, and reset. -/
theorem test_step_host_actions :
    nextIs (step { closedState .raw with inbox := [.text 254 0x41] }) (fun t => t.text.read 254 == some 0x41) = true ∧
    faultIs (step { closedState .raw with inbox := [.text 255 0x41] }) .textAddress = true ∧
    nextIs (step { readyState .raw 16 2 with inbox := [.resetPulse], fault := true }) (fun t =>
      t.session == .closed && !t.fault && t.resp.word == 0x000) = true := by decide

/-- A word of either kind placed right after reset runs on the next step (log 9, 11): OPEN, a refused GOTO, a wire row. -/
theorem test_first_after_reset :
    nextIs (step (State.reset.withFetchWord 32 0x0000013F)) (fun _ => true) = true ∧
    nextIs (step (State.reset.withFetchWord 32 0x20000000)) (fun t => t.resp.word == 0x043) = true ∧
    nextIs (step (State.reset.withFetchWord 8 0x28)) (fun _ => true) = true := by decide

/-- A word that is no instruction is never run as one (log 28): a nibble init never sends, a width no format has, and the
first illegal command word. -/
theorem test_placed_no_instruction :
    refusedIs (step (State.reset.withFetchWord 4 0x5)) (.notAWireWord .notAStartupNibble) = true ∧
    refusedIs (step (State.reset.withFetchWord 16 0x3)) (.notAWireWord .tooWide) = true ∧
    nextIs (step (State.reset.withFetchWord 32 0x80000000)) (fun t => t.resp.word == 0x023) = true := by decide

/-! ## Witnesses: for each statement with hypotheses, a state and operands that meet all of them together -/

/-- From the checker's answer to the outcome. -/
theorem exists_of_nextIs {o : Host.Outcome State Fault Refusal} {p : State → Bool} (h : nextIs o p = true) :
    ∃ t, o = .next t ∧ p t = true := by
  cases o with
  | next t => exact ⟨t, rfl, h⟩
  | fault _ => exact Bool.noConfusion h
  | refused _ => exact Bool.noConfusion h

/-- Ready, two rows of 16, with a word to run next. -/
def readyWith (w : Word) : State := { readyState .raw 16 2 with inbox := [.word .host32 w] }

/-- 512 good answers and 9 zero codes to come. -/
def goodState (t : Transport) : State :=
  { readyState t 16 2 with boolAnswers := List.replicate 512 true, codeAnswers := List.replicate 9 0 }

/-- DecodeOfEncodeIsTheInstruction: both sides of the sign bit. -/
theorem witness_wellFormed :
    Instr.wf (.clearAll 0x80) = true ∧ Instr.wf (.clearRow 0x7F) = true ∧ Instr.wf (.print 255 255 127) = true := by decide

/-- EncodeOfDecodeIsTheWord. -/
theorem witness_decodes :
    decode .host32 0x4000007F = .ok (.clearRow 0x7F) ∧ decode .tbyte8 0xBF = .ok (.tbyte true true true 15) := by decide

/-- IllegalWordIsRefusedAndNothingElse: each clause, at the ends of its range. -/
theorem witness_illegal :
    IsIllegal 0x80000000 ∧ IsIllegal 0xFFFFFFFF ∧ IsIllegal 0x70000001 ∧ IsIllegal 0x00000080 ∧ ¬ IsIllegal 0x70000000 ∧
      ¬ IsIllegal 0x0000FF7F ∧ (readyWith 0x80000000).inbox = [.word .host32 0x80000000] := by
  unfold IsIllegal; decide

/-- PlacedCommandIsTheNextToRun. -/
theorem witness_placed : Instr.wf (.goto 0xFF 2) = true ∧ (Instr.goto 0xFF 2).format = .host32 := by decide

/-- RowBaseOfEveryRow, ColumnIsClampedToTheWidth, SetAddressSumFitsUpToWidth31: the ends of the ranges. -/
theorem witness_address :
    ((-1 : Int) < 0 ∨ (3 : Int) < -1) ∧ ((4 : Int) < 0 ∨ (3 : Int) < 4) ∧ (0 : Int) ≤ 0 ∧ ((31 : Nat) : Int) ≤ 31 ∧
      (31 : Nat) ≤ 31 ∧ targetSum 31 31 3 = 0xFE ∧ targetSum 32 32 3 = 0x100 := by decide

/-- PackIsTheSumOfItsFields, PackKeepsItsFields, PairDiffersInTheStrobeOnly. -/
theorem witness_pack :
    ControlBits.default.distinct = true ∧ (⟨.p7, .p6, .p5, .p4⟩ : ControlBits).distinct = true ∧ 15 < 16 := by decide

/-- FrameHasItsLengthAndCarriesItsPayload. -/
theorem witness_frame_carries : Mode.data ≠ .startup ∧ 1 < [0x48#8, 0x69#8].length := by decide

/-- FrameChangesOnlyStrobeAndNibble, FramePositionsAdvanceInOrder. -/
theorem witness_frame_places :
    ControlBits.default.distinct = true ∧ Mode.cmd ≠ .startup ∧ (expand ControlBits.default .cmd true [0x01])[3]? = some 0x11 ∧
      (frameSlots ControlBits.default .cmd true [0x01])[3]? = some ⟨0, .lo, false, 0x11⟩ := by decide

/-- BlockSendStagesAndChunks: the longest frame that fits. -/
theorem witness_block :
    (expand (readyState .block 16 2).straps.bits .data true (List.replicate 16 0x20)).length = 64 := by decide

/-- StartupFrameIsOneNibble, RawAndBlockSendTheSameBytes: an engine of each kind. -/
theorem witness_senders :
    (openState .raw).straps.transport = .raw ∧ (openState .block).straps.transport = .block ∧
      (openState .raw).straps.bits = (openState .block).straps.bits := by decide

/-- OpenBindsOrReportsTheFailedStep, and with it each clause of the other statements made with `RefusedOr`: a state in which
the command is refused, and one in which it runs. -/
theorem witness_admission :
    refusalOf (closedState .raw) (.openDev 1 0x3F) = none ∧
    refusalOf (openState .raw) (.openDev 1 0x3F) = some .sessionBusy ∧
    refusalOf (openState .raw) (.init true 4 127) = none ∧
    refusalOf (openState .raw) (.init true 2 0x80) = some .badGeometry ∧
    refusalOf (readyState .raw 16 2) (.goto 3 127) = none ∧
    refusalOf (readyState .raw 16 2) (.goto 3 128) = some .badOperand ∧
    refusalOf (readyState .raw 16 2) (.clearAll 0x80) = none ∧
    refusalOf (openState .raw) (.clearAll 0x80) = some .notReady ∧
    refusalOf (readyState .raw 16 2) (.backlight true) = none ∧
    refusalOf (closedState .raw) (.backlight true) = some .noSession ∧
    refusalOf (readyState .raw 16 2) (.control true true false false) = none ∧
    refusalOf (openState .raw) (.control true true false false) = some .notReady := by decide

/-- CloseReleasesAndNeverFails. -/
theorem witness_close : (closedState .raw).session = .closed ∧ (openState .raw).session = .opened := by decide

/-- PrintSendsTheFirstWidthCharacters: admitted, its bytes written, and a length longer than the width. -/
theorem witness_print :
    refusalOf (withText [0x48, 0x69] (readyState .raw 1 2)) (.print 2 0 0) = none ∧ 1 ≤ (readyState .raw 1 2).width.toNat ∧
      [0x48#8].length = min 2 1 ∧ ∀ k, k < 1 → (withText [0x48, 0x69] (readyState .raw 1 2)).text.read k = [0x48#8][k]? := by
  decide

/-- PrintSendsTheFirstWidthCharacters: refused. -/
theorem witness_print_refused : refusalOf (readyState .raw 16 2) (.print 0 0 0) = some .emptyPayload := by decide

/-- PrintStopsOnTextNothingHasWritten. -/
theorem witness_print_stops :
    refusalOf (readyState .raw 16 2) (.print 2 0 0) = none ∧ 1 < min (2#8).toNat (readyState .raw 16 2).width.toNat ∧
      (readyState .raw 16 2).text.read 1 = none := by decide

/-- ClearRowSendsWidthSpaces: the last line that is not negative, and line 0; admitted and refused. -/
theorem witness_clearRow :
    (0x7F#8).msb = false ∧ (0x00#8).msb = false ∧ 1 ≤ (readyState .raw 16 2).width.toNat ∧
      refusalOf (readyState .raw 16 2) (.clearRow 0x7F) = none ∧ refusalOf (readyState .raw 16 2) (.clearRow 0) = none ∧
      refusalOf (readyState .block 17 2) (.clearRow 0) = some .stagingOverflow := by decide

/-- RefusalFollowsTheAdmissionTable, MacroStatesRefuseTheirOperations: a host command in each macro-state. -/
theorem witness_macro :
    macroOf (closedState .raw) = .closed ∧ macroOf (openState .raw) = .uninitialized ∧
      macroOf (readyState .raw 16 2) = .ready ∧ Instr.format (.goto 0 0) = .host32 ∧ Instr.goto 0 0 ≠ .close ∧
      Instr.format (.init true 2 16) = .host32 ∧ Instr.init true 2 16 ≠ .close := by decide

/-- The wire rows outside init, and with no session. -/
theorem witness_wire :
    (openState .raw).session = .opened ∧ (openState .raw).seq = .idle ∧ Instr.format .lcdWake ≠ .host32 ∧
      (closedState .raw).session = .closed := by decide

/-- RowsInsideInitSendTheStepTheSequencerStandsAt, NineWireRowsMakeTheEventsOfInit: the sequencer at init's first and last
sends. -/
theorem witness_inside_init :
    { openState .raw with seq := Seq.start .init }.session = .opened ∧
      { openState .raw with seq := Seq.start .init }.seq = .running .init 1 0 .hi true ∧
      { openState .raw with seq := .running .init 9 0 .hi true }.seq = .running .init 9 0 .hi true := by decide

/-- StepRunsTheDecodedInstruction: a host word and a wire word. -/
theorem witness_step :
    (readyWith 0x70000000).inbox = [.word .host32 0x70000000] ∧ decode .host32 0x70000000 = .ok .close ∧
      { openState .raw with inbox := [.word .lcd8data 0x54] }.inbox = [.word .lcd8data 0x54] ∧
      decode .lcd8data 0x54 = .ok (.lcdData 0x54) := by decide

/-- StepTakesTheHostsActions: the last address of TEXT and the first outside it. ResetPulseClosesTheEngine. -/
theorem witness_host_actions :
    (closedState .raw).inbox = [] ∧ { closedState .raw with inbox := [.text 254 0x41] }.inbox = [.text 254 0x41] ∧ 254 < 255 ∧
      { closedState .raw with inbox := [.text 255 0x41] }.inbox = [.text 255 0x41] ∧ 255 ≤ 255 ∧
      { closedState .raw with inbox := [.resetPulse] }.inbox = [.resetPulse] := by decide

/-- StepKeepsTheInvariant: a Ready engine meets it, and its next step runs. -/
theorem witness_invariant :
    StateInv (readyWith 0x20000105) ∧ ∃ t, step (readyWith 0x20000105) = .next t := by
  refine ⟨?_, ?_⟩
  · constructor <;> decide
  · obtain ⟨t, h, _⟩ := exists_of_nextIs (p := fun _ => true) (o := step (readyWith 0x20000105)) (by decide)
    exact ⟨t, h⟩

/-- MacroStateMovesOnlyAsTheRulesSay: each move. -/
theorem witness_moves :
    (∃ t, step { closedState .raw with inbox := [.word .host32 0x0000013F] } = .next t ∧
      macroOf t ≠ macroOf { closedState .raw with inbox := [.word .host32 0x0000013F] }) ∧
    (∃ t, step { openState .block with inbox := [.word .host32 0x10010210] } = .next t ∧
      macroOf t ≠ macroOf { openState .block with inbox := [.word .host32 0x10010210] }) ∧
    (∃ t, step (readyWith 0x70000000) = .next t ∧ macroOf t ≠ macroOf (readyWith 0x70000000)) ∧
    (∃ t, step { openState .raw with inbox := [.resetPulse] } = .next t ∧
      macroOf t ≠ macroOf { openState .raw with inbox := [.resetPulse] }) := by
  refine ⟨?_, ?_, ?_, ?_⟩
  · obtain ⟨t, h, k⟩ := exists_of_nextIs (p := fun t => macroOf t != .closed)
      (o := step { closedState .raw with inbox := [.word .host32 0x0000013F] }) (by decide)
    exact ⟨t, h, bne_iff_ne.mp k⟩
  · obtain ⟨t, h, k⟩ := exists_of_nextIs (p := fun t => macroOf t != .uninitialized)
      (o := step { openState .block with inbox := [.word .host32 0x10010210] }) (by decide)
    exact ⟨t, h, bne_iff_ne.mp k⟩
  · obtain ⟨t, h, k⟩ := exists_of_nextIs (p := fun t => macroOf t != .ready) (o := step (readyWith 0x70000000)) (by decide)
    exact ⟨t, h, bne_iff_ne.mp k⟩
  · obtain ⟨t, h, k⟩ := exists_of_nextIs (p := fun t => macroOf t != .uninitialized)
      (o := step { openState .raw with inbox := [.resetPulse] }) (by decide)
    exact ⟨t, h, bne_iff_ne.mp k⟩

/-- StickyFlagRecordsEveryRefusal: the flag is set by a refusal and cleared by reset. ClosedEngineWritesNothing: a step from
Closed. TraceIsAppendedToAndNeverRead: a step that runs. -/
theorem witness_flag :
    (∃ t, step { closedState .raw with inbox := [.word .host32 0x20000000] } = .next t ∧
      (closedState .raw).session = .closed ∧ (closedState .raw).fault = false ∧ t.fault = true) ∧
    ∃ t, step { closedState .raw with fault := true, inbox := [.resetPulse] } = .next t ∧ t.fault = false := by
  refine ⟨?_, ?_⟩
  · obtain ⟨t, h, k⟩ := exists_of_nextIs (p := fun t => t.fault)
      (o := step { closedState .raw with inbox := [.word .host32 0x20000000] }) (by decide)
    exact ⟨t, h, rfl, rfl, k⟩
  · obtain ⟨t, h, k⟩ := exists_of_nextIs (p := fun t => !t.fault)
      (o := step { closedState .raw with fault := true, inbox := [.resetPulse] }) (by decide)
    exact ⟨t, h, by simpa using k⟩

/-- NoInstructionWritesTheHostsState, RegistersAreWrittenByTheirOperationsOnly, CommandsRequestTheirDelays: a command that
runs to a next state and writes a register. -/
theorem witness_exec :
    ∃ t, exec (.backlight false) (readyState .raw 16 2) = .next t ∧ t.bl ≠ (readyState .raw 16 2).bl ∧
      Instr.format (.backlight false) = .host32 ∧ refusalOf (readyState .raw 16 2) (.backlight false) = none := by
  obtain ⟨t, h, k⟩ := exists_of_nextIs (p := fun t => !t.bl) (o := exec (.backlight false) (readyState .raw 16 2)) (by decide)
  exact ⟨t, h, by simpa [readyState] using k, rfl, rfl⟩

/-- GoodAnswersNeverEndInFailure. -/
theorem witness_good_answers :
    (∀ k, k < 512 → boolAt (goodState .raw) k = true) ∧ (∀ k, k < 9 → codeAt (goodState .raw) k = 0) ∧
      ∃ t, exec (.backlight false) (goodState .raw) = .next t := by
  refine ⟨fun k hk => ?_, fun k hk => ?_, ?_⟩
  · have h : (goodState .raw).boolAnswers[k]? = some true := by
      rw [goodState, List.getElem?_replicate, if_pos hk]
    rw [boolAt, h]
  · have h : (goodState .raw).codeAnswers[k]? = some 0 := by
      rw [goodState, List.getElem?_replicate, if_pos hk]
    rw [codeAt, h]
  · exact ⟨_, rfl⟩

end Sys2Proof.Tests
end

/-! # Encoding: illegal words and the display-control byte -/

namespace Sys2Proof.Proofs.Encoding

open Sys2Proof.Decode Sys2Proof.Laws Sys2Proof.Machine Sys2Proof.Safety

/-! ## A row's must-be-zero fields as a mask (30 R53) -/

/-- A field is 0 exactly when the word has no bit in common with the field's mask. -/
theorem field_eq_zero_iff_mask (lo n : Nat) (w : Word) :
    field lo n w = 0#n ↔ w.toNat &&& (2 ^ n - 1) <<< lo = 0 := by
  have low : w.toNat / 2 ^ lo % 2 ^ n = w.toNat >>> lo &&& (2 ^ n - 1) := by
    rw [Nat.and_two_pow_sub_one_eq_mod, Nat.shiftRight_eq_div_pow]
  rw [field_eq_iff, low, BitVec.toNat_ofNat, Nat.zero_mod]
  have moved : w.toNat &&& (2 ^ n - 1) <<< lo = (w.toNat >>> lo &&& (2 ^ n - 1)) <<< lo := by
    refine Nat.eq_of_testBit_eq fun i => ?_
    by_cases hi : lo ≤ i <;> simp [Nat.testBit_shiftLeft, Nat.testBit_shiftRight, hi, Bool.and_comm]
  rw [moved, Nat.shiftLeft_eq, Nat.mul_eq_zero]
  simp

theorem whenZero_ok_iff (zeros : Bool) (i : Instr) : (∃ j, whenZero zeros i = .ok j) ↔ zeros = true := by
  cases zeros <;> simp [whenZero]

/-- A row whose must-be-zero bits are one field takes the words with none of that field's bits set. -/
theorem whenZero_field_ok_iff (lo n : Nat) (w : Word) (i : Instr) :
    (∃ j, whenZero (field lo n w == 0#n) i = .ok j) ↔ w.toNat &&& (2 ^ n - 1) <<< lo = 0 := by
  rw [whenZero_ok_iff, beq_iff_eq, field_eq_zero_iff_mask]

/-- OPEN's must-be-zero bits are two fields, and its mask is the union of theirs. -/
theorem openRow_ok_iff (w : Word) : (∃ i, openRow w = .ok i) ↔ w.toNat &&& mustBeZero 0 = 0 := by
  have union : mustBeZero 0 = (2 ^ 12 - 1) <<< 16 ||| (2 ^ 1 - 1) <<< 7 := rfl
  rw [openRow, whenZero_ok_iff, Bool.and_eq_true, beq_iff_eq, beq_iff_eq, field_eq_zero_iff_mask, field_eq_zero_iff_mask,
    union, Nat.and_or_distrib_left, Nat.or_eq_zero_iff]

/-- `OP` is the word's number over 2 ^ 28. -/
theorem op_eq_iff (w : Word) (v : BitVec 4) : op w = v ↔ w.toNat / 2 ^ 28 = v.toNat := by
  rw [op, field_eq_iff, Nat.mod_eq_of_lt (by have := w.isLt; omega)]

/-! ## Which host words are commands (30 R56) -/

/-- The decoder of each `OP`'s row, numbered as `mustBeZero` numbers its masks. -/
def hostRow : Nat → Word → Decoded
  | 0 => openRow
  | 1 => initRow
  | 2 => gotoRow
  | 3 => printRow
  | 4 => Decode.clearRow
  | 5 => backlightRow
  | 6 => controlRow
  | _ => closeRow

/-- `host` rejects the upper half of the words, and reads every other word by the row of its `OP`. -/
theorem host_eq_hostRow (w : Word) :
    host w = if 0x80000000 ≤ w.toNat then .bad .reservedOp else hostRow (w.toNat / 2 ^ 28) w := by
  by_cases high : 0x80000000 ≤ w.toNat
  · have hop : 8 ≤ w.toNat / 2 ^ 28 := by omega
    simp only [host, op_eq_iff, BitVec.toNat_ofNat, if_pos high]
    repeat rw [if_neg (by omega)]
  · have hop : w.toNat / 2 ^ 28 < 8 := by omega
    simp only [host, op_eq_iff, if_neg high]
    generalize w.toNat / 2 ^ 28 = n at hop ⊢
    interval_cases n <;> rfl

/-- A row takes exactly the words with none of its must-be-zero bits set. -/
theorem hostRow_ok_iff (n : Nat) (w : Word) : (∃ i, hostRow n w = .ok i) ↔ w.toNat &&& mustBeZero n = 0 :=
  match n with
  | 0 => openRow_ok_iff w
  | 1 => whenZero_field_ok_iff 17 11 w _
  | 2 => whenZero_field_ok_iff 16 12 w _
  | 3 => whenZero_field_ok_iff 24 4 w _
  | 4 => whenZero_field_ok_iff 8 20 w _
  | 5 => whenZero_field_ok_iff 1 27 w _
  | 6 => whenZero_field_ok_iff 4 24 w _
  | _ + 7 => whenZero_field_ok_iff 0 28 w _

/-- A host word is a command exactly when it is not illegal. -/
theorem decode_host_ok_iff (w : Word) : (∃ i, decode .host32 w = .ok i) ↔ ¬ IsIllegal w := by
  rw [show decode .host32 w = host w from rfl, host_eq_hostRow, IsIllegal]
  split
  · next high => simp [high]
  · next low => simp only [hostRow_ok_iff, low, false_or, not_not]

/-- A host word that does not decode is refused by the step that takes it (42 R80 check 1, 60 R107). -/
theorem step_of_decode_bad {w : Word} {e : DecodeError} (hbad : decode .host32 w = .bad e) {s : State} {rest : List Input}
    (hin : s.inbox = .word .host32 w :: rest) :
    step s = .next { s with inbox := rest, cmd := w, resp := Resp.refused .illegalCommand, fault := true } := by
  simp only [step, fetch, hin, hbad, illegalWord, latch, raiseRefused]

/-- Settles O4: the decoder's rejections are the illegal words, and a rejected word is refused. -/
theorem illegalWordIsRefusedAndNothingElse : Obligations.IllegalWordIsRefusedAndNothingElse := by
  refine fun w => ⟨fun hill s rest hin => ?_, (decode_host_ok_iff w).2⟩
  cases hd : decode .host32 w with
  | ok i => exact absurd hill ((decode_host_ok_iff w).1 ⟨i, hd⟩)
  | bad e => exact step_of_decode_bad hd hin

/-! ## The display-control byte (30 R50) -/

/-- The byte's layout, from bit 7 down. -/
theorem controlByte_eq_append (d c k : Bool) :
    controlByte d c k = 0#4 ++ (1#1 ++ (BitVec.ofBool d ++ (BitVec.ofBool c ++ BitVec.ofBool k))) := by
  revert d c k; decide

/-- The byte as a number. -/
theorem controlByte_toNat (d c k : Bool) :
    (controlByte d c k).toNat = 0x08 + d.toNat * 4 + c.toNat * 2 + k.toNat := by
  revert d c k; decide

/-- Settles O9: the byte's number and, from its layout, its bits. -/
theorem controlByteHasItsThreeBits : Obligations.ControlByteHasItsThreeBits := by
  intro d c k
  refine ⟨controlByte_toNat d c k, ?_⟩
  rw [controlByte_eq_append]
  refine ⟨?_, ?_, ?_, ?_, BitVec.extractLsb'_append_eq_left⟩ <;>
    simp only [BitVec.getLsbD_append, BitVec.getLsbD_ofBool] <;> simp

end Sys2Proof.Proofs.Encoding

/-! # Bit Packer: the fields of a packed byte, its strobe pair, and the nibbles of a byte -/

namespace Sys2Proof.Proofs.BitPacker

open Sys2Proof.Laws Sys2Proof.Machine

/-! ## The places of the control bits (30 R44) -/

theorem num_lt (p : CtlPos) : p.num < 8 := by cases p <;> decide

theorem four_le_num (p : CtlPos) : 4 ≤ p.num := by cases p <;> decide

@[simp] theorem num_inj {p q : CtlPos} : p.num = q.num ↔ p = q := by
  cases p <;> cases q <;> decide

theorem distinct_iff (c : ControlBits) :
    c.distinct = true ↔
      c.bl ≠ c.en ∧ c.bl ≠ c.rw ∧ c.bl ≠ c.rs ∧ c.en ≠ c.rw ∧ c.en ≠ c.rs ∧ c.rw ≠ c.rs := by
  simp only [ControlBits.distinct, Bool.and_eq_true, bne_iff_ne, and_assoc]

/-! ## One field of a packed byte -/

theorem bitAt_toNat (b : Bool) (p : CtlPos) : (bitAt b p).toNat = b.toNat * 2 ^ p.num := by
  cases p <;> cases b <;> rfl

theorem bitAt_getLsbD (b : Bool) (p : CtlPos) (i : Nat) :
    (bitAt b p).getLsbD i = (decide (i = p.num) && b) := by
  have hp := num_lt p
  simp only [bitAt, BitVec.getLsbD_shiftLeft, BitVec.getLsbD_setWidth, BitVec.getLsbD_ofBool]
  by_cases hi : i = p.num
  · simp [hi, hp]
  · have : i < p.num ∨ i - p.num ≠ 0 := by omega
    rcases this with h | h <;> simp [hi, h]

/-- Bits at two different places do not overlap. -/
theorem bitAt_and_bitAt {p q : CtlPos} (hpq : p ≠ q) (a b : Bool) : bitAt a p &&& bitAt b q = 0#8 := by
  refine BitVec.eq_of_getLsbD_eq fun i _ => ?_
  by_cases hi : i = p.num <;> simp [bitAt_getLsbD, hi, hpq]

/-- The nibble of a packed byte lies below every control bit. -/
theorem nibble_getLsbD_num (n : Nat) (p : CtlPos) : (BitVec.ofNat 8 (n % 16)).getLsbD p.num = false := by
  have below : n % 16 < 2 ^ p.num :=
    calc n % 16 < 2 ^ 4 := Nat.mod_lt _ (by decide)
      _ ≤ 2 ^ p.num := Nat.pow_le_pow_right (by decide) (four_le_num p)
  simp [BitVec.getLsbD_ofNat, Nat.testBit_lt_two_pow below]

theorem bitAt_and_nibble (b : Bool) (p : CtlPos) (n : Nat) : bitAt b p &&& BitVec.ofNat 8 (n % 16) = 0#8 := by
  refine BitVec.eq_of_getLsbD_eq fun i _ => ?_
  by_cases hi : i = p.num
  · simp [hi, nibble_getLsbD_num]
  · simp [bitAt_getLsbD, hi]

theorem bitAt_low (b : Bool) (p : CtlPos) : (bitAt b p).extractLsb' 0 4 = 0#4 := by
  cases p <;> cases b <;> rfl

/-! ## The whole byte -/

/-- Words with no bit in common are joined as they are added. -/
theorem toNat_or_of_and_eq_zero {w : Nat} {x y : BitVec w} (h : x &&& y = 0#w) :
    (x ||| y).toNat = x.toNat + y.toNat := by
  rw [← BitVec.add_eq_or_of_and_eq_zero x y h, BitVec.toNat_add_of_and_eq_zero h]

/-- The control bit at a place is the bit of each field that has this place. -/
theorem pack_getLsbD_num (c : ControlBits) (rs bl : Bool) (n : Nat) (en : Bool) (p : CtlPos) :
    (pack c rs bl n en).getLsbD p.num =
      (decide (p = c.rs) && rs || decide (p = c.rw) && Config.rwWrite || decide (p = c.en) && en || decide (p = c.bl) && bl) := by
  simp only [pack, BitVec.getLsbD_or, bitAt_getLsbD, num_inj, nibble_getLsbD_num, Bool.or_false]

theorem pack_getLsbD_en {c : ControlBits} (hc : c.distinct = true) (rs bl : Bool) (n : Nat) (en : Bool) :
    (pack c rs bl n en).getLsbD c.en.num = en := by
  obtain ⟨bl_en, -, -, en_rw, en_rs, -⟩ := (distinct_iff c).1 hc
  simp [pack_getLsbD_num, en_rs, en_rw, bl_en.symm]

/-- Away from the strobe's place the byte does not depend on the strobe (40 R62). -/
theorem pack_getLsbD_of_ne_en {c : ControlBits} {i : Nat} (hi : i ≠ c.en.num) (rs bl : Bool) (n : Nat) (en en' : Bool) :
    (pack c rs bl n en).getLsbD i = (pack c rs bl n en').getLsbD i := by
  simp only [pack, BitVec.getLsbD_or, bitAt_getLsbD, hi, decide_false, Bool.false_and]

theorem pack_low (c : ControlBits) (rs bl : Bool) (n : Nat) (en : Bool) :
    (pack c rs bl n en).extractLsb' 0 4 = BitVec.ofNat 4 n := by
  simp only [pack, BitVec.extractLsb'_or, bitAt_low, BitVec.zero_or]
  refine BitVec.eq_of_toNat_eq ?_
  simp only [BitVec.extractLsb'_toNat, BitVec.toNat_ofNat, Nat.shiftRight_zero]
  omega

/-! ## The statements -/

/-- Settles O11: no two fields overlap, so each union in `pack` is a sum. -/
theorem packIsTheSumOfItsFields : Obligations.PackIsTheSumOfItsFields := by
  intro c rs bl en n hc
  obtain ⟨bl_en, bl_rw, bl_rs, en_rw, en_rs, rw_rs⟩ := (distinct_iff c).1 hc
  have nibble_value : n % 16 % 2 ^ 8 = n % 16 := by omega
  rw [pack, toNat_or_of_and_eq_zero, toNat_or_of_and_eq_zero, toNat_or_of_and_eq_zero, toNat_or_of_and_eq_zero]
  · simp only [bitAt_toNat, BitVec.toNat_ofNat, nibble_value]
  · exact bitAt_and_bitAt rw_rs.symm ..
  · simp only [BitVec.and_or_distrib_right, bitAt_and_bitAt en_rs.symm, bitAt_and_bitAt en_rw.symm, BitVec.or_zero]
  · simp only [BitVec.and_or_distrib_right, bitAt_and_bitAt bl_rs.symm, bitAt_and_bitAt bl_rw.symm,
      bitAt_and_bitAt bl_en.symm, BitVec.or_zero]
  · simp only [BitVec.and_or_distrib_right, bitAt_and_nibble, BitVec.or_zero]

/-- Settles O12: the low four bits and the bit at each place, read back from the byte. -/
theorem packKeepsItsFields : Obligations.PackKeepsItsFields := by
  intro c rs bl en n hc hn
  obtain ⟨bl_en, bl_rw, bl_rs, en_rw, en_rs, rw_rs⟩ := (distinct_iff c).1 hc
  refine ⟨?_, ?_, ?_, ?_, ?_⟩
  · rw [pack_low, BitVec.toNat_ofNat, Nat.mod_eq_of_lt hn]
  · simp [pack_getLsbD_num, rw_rs.symm, en_rs.symm, bl_rs.symm]
  · simp [pack_getLsbD_num, bl_rs, bl_rw, bl_en]
  · exact pack_getLsbD_en hc ..
  · simp [pack_getLsbD_num, rw_rs, en_rw.symm, bl_rw.symm]

/-- Settles O13: bit by bit, at the strobe's place and away from it. -/
theorem pairDiffersInTheStrobeOnly : Obligations.PairDiffersInTheStrobeOnly := by
  intro c rs bl n hc
  refine ⟨_, _, rfl, rfl, rfl, BitVec.eq_of_getLsbD_eq fun i _ => ?_⟩
  rw [BitVec.getLsbD_xor, ← BitVec.twoPow_eq, BitVec.getLsbD_twoPow]
  by_cases hi : i = c.en.num
  · rw [hi, pack_getLsbD_en hc, pack_getLsbD_en hc]
    simp [num_lt]
  · rw [pack_getLsbD_of_ne_en hi rs bl n true false]
    simp [Ne.symm hi]

/-- Settles O14: the nibbles' numbers, and the two halves of the byte put together again. -/
theorem nibblesMakeTheByte : Obligations.NibblesMakeTheByte := fun b =>
  ⟨hiNibble_toNat b, loNibble_toNat b, (BitVec.extractLsb'_append_extractLsb' (w := 4) (len := 4) (x := b)).symm⟩

end Sys2Proof.Proofs.BitPacker

/-! # Frame Transport: the raw writer and the block writer -/

namespace Sys2Proof.Proofs.FrameTransport

open Sys2Proof.Laws Sys2Proof.Machine Sys2Proof.Safety

/-! ## The coming answers as propositions -/

theorem writesGood_iff (s : State) (n : Nat) : writesGood s 0 n = true ↔ ∀ k, k < n → boolAt s k = true := by
  simp only [writesGood, List.all_eq_true, List.mem_range, Nat.zero_add]

theorem codesGood_iff (s : State) (n : Nat) : codesGood s 0 n = true ↔ ∀ k, k < n → codeAt s k = 0 := by
  simp only [codesGood, List.all_eq_true, List.mem_range, Nat.zero_add, beq_iff_eq]

theorem frameSlots_length_eq (c : ControlBits) (mode : Mode) (bl : Bool) (p : List Byte) :
    (frameSlots c mode bl p).length = (frameBytes c mode bl p).length := by
  rw [← frameSlots_val, List.length_map]

/-! ## Raw writer -/

/-- Every byte is attempted in order, and one delay follows (41 R68, R70). -/
theorem rawSend_trace (mode : Mode) (bl : Bool) (p : List Byte) (n : Nat) (s : State) :
    (rawSend mode bl p n s).2.trace = s.trace ++ (frameBytes s.straps.bits mode bl p).map .write
      ++ [.delay (if n = 0 then s.straps.tDefaultUs else n)] := by
  have kept := (rawWrites_keeps (frameSlots s.straps.bits mode bl p) s).straps
  rw [rawSend, rawDelay_trace, rawTransmit, rawWrites_trace, kept, ← frameSlots_val, List.map_map]
  rfl

/-- The raw writer answers whether every write was answered good (41 R69). -/
theorem rawSend_answer (mode : Mode) (bl : Bool) (p : List Byte) (n : Nat) (s : State) :
    (rawSend mode bl p n s).1 = writesGood s 0 (frameBytes s.straps.bits mode bl p).length := by
  rw [rawSend, rawTransmit_answer, frameSlots_length_eq]

/-- Settles O18: the events of the raw writer, and its answer read as a proposition. -/
theorem rawSendAttemptsEveryWrite : Obligations.RawSendAttemptsEveryWrite := by
  refine fun mode bl p n s => ⟨rawSend_trace mode bl p n s, ?_⟩
  rw [rawSend_answer, writesGood_iff]

/-! ## Block writer -/

/-- Staging a frame moves no coming code. -/
theorem codesGood_stageFrame (sls : List Slot) (s : State) (n : Nat) :
    codesGood (stageFrame sls s) 0 n = codesGood s 0 n := rfl

/-- Inside the frame STAGE reads as the frame's bytes, from its start (41 R72). -/
theorem stageFrame_read (c : ControlBits) (mode : Mode) (bl : Bool) (p : List Byte) (s : State) {k : Nat}
    (hk : k < (frameBytes c mode bl p).length) :
    (stageFrame (frameSlots c mode bl p) s).stage.read k = (frameBytes c mode bl p)[k]? := by
  rw [stageFrame, frameSlots_val, read_writeFrom, if_pos (by omega), Nat.sub_zero]

/-- The block writes of the frame's bytes, and both delays after them (41 R73, R75). -/
theorem blockSend_trace (mode : Mode) (bl : Bool) (p : List Byte) (n : Nat) (s : State) :
    (blockSend mode bl p n s).2.trace = s.trace ++ chunkEvents (frameBytes s.straps.bits mode bl p)
      ++ [.delay n, .delay s.straps.tDefaultUs] := by
  have kept := (blockTransmit_keeps (frameSlots s.straps.bits mode bl p) s).straps
  have sent : (blockTransmit (frameSlots s.straps.bits mode bl p) s).2.trace
      = s.trace ++ chunkEvents (frameBytes s.straps.bits mode bl p) := by
    simp only [blockTransmit_eq, dropStage_fields, blockWrites_trace, stageFrame_fields, frameSlots_val]
  simp only [blockSend, blockDelay, delay_fields, sent, kept, List.append_assoc, List.singleton_append]

/-- The block writer answers whether every call returned 0 (41 R74). -/
theorem blockSend_answer (mode : Mode) (bl : Bool) (p : List Byte) (n : Nat) (s : State) :
    (blockSend mode bl p n s).1 = codesGood s 0 (chunkCount (frameBytes s.straps.bits mode bl p).length) := by
  rw [blockSend, blockTransmit_eq, blockWrites_zero, codesGood_stageFrame, frameSlots_val]

/-- The staged length is the frame's, which fits the register's 7 bits (41 R72). -/
theorem blockSend_stageLen {mode : Mode} {bl : Bool} {p : List Byte} (n : Nat) {s : State}
    (fits : (frameBytes s.straps.bits mode bl p).length ≤ 64) :
    (blockSend mode bl p n s).2.stageLen.toNat = (frameBytes s.straps.bits mode bl p).length := by
  have kept : (blockSend mode bl p n s).2.stageLen
      = BitVec.ofNat 7 (frameSlots s.straps.bits mode bl p).length := by
    simp only [blockSend, blockTransmit_eq, blockDelay, delay_fields, dropStage_fields, blockWrites_stage,
      stageFrame_fields]
  rw [kept, frameSlots_length_eq, BitVec.toNat_ofNat, Nat.mod_eq_of_lt (by omega)]

/-- Settles O19: the block writer's events, answer and staged length, and what STAGE reads as when it is filled. -/
theorem blockSendStagesAndChunks : Obligations.BlockSendStagesAndChunks := by
  refine fun mode bl p n s fits => ⟨blockSend_trace mode bl p n s, ?_, blockSend_stageLen n fits,
    fun _ hk => stageFrame_read _ _ _ _ _ hk⟩
  rw [blockSend_answer, codesGood_iff, chunkCount]

end Sys2Proof.Proofs.FrameTransport

/-! # Admission: the checks of each engine operation are its row of the table -/

namespace Sys2Proof.Proofs.Admission

open Sys2Proof.Laws Sys2Proof.Machine Sys2Proof.Safety

/-! ## One check at the head of a list (42 R80) -/

/-- A check at the head of a list, by the condition under which it fails. -/
theorem firstFailing_cons {c : Check} {fails : Prop} [Decidable fails] (h : c.1 = true ↔ ¬ fails) (cs : List Check) :
    firstFailing (c :: cs) = if fails then some c.2 else firstFailing cs := by
  simp only [firstFailing, h, ite_not]

@[simp] theorem firstFailing_nil : firstFailing [] = none := rfl

@[simp] theorem firstFailing_checkOpened (s : State) (cs : List Check) :
    firstFailing (checkOpened s :: cs) = if s.session = .closed then some .noSession else firstFailing cs :=
  firstFailing_cons (by cases h : s.session <;> simp [checkOpened, h]) cs

@[simp] theorem firstFailing_checkUninitialized (s : State) (cs : List Check) :
    firstFailing (checkUninitialized s :: cs)
      = if s.phase = .ready then some .alreadyInitialized else firstFailing cs :=
  firstFailing_cons (by cases h : s.phase <;> simp [checkUninitialized, h]) cs

@[simp] theorem firstFailing_checkReady (s : State) (cs : List Check) :
    firstFailing (checkReady s :: cs) = if s.phase = .uninitialized then some .notReady else firstFailing cs :=
  firstFailing_cons (by cases h : s.phase <;> simp [checkReady, h]) cs

theorem checkGeometry_iff (height width : BitVec 8) :
    (checkGeometry height width).1 = true ↔
      1 ≤ width.toInt ∧ (height.toInt = 1 ∨ height.toInt = 2 ∨ height.toInt = 4) := by
  simp only [checkGeometry, geometryLegal, Bool.and_eq_true, Bool.or_eq_true, decide_eq_true_iff, beq_iff_eq, or_assoc]
  rfl

@[simp] theorem firstFailing_checkGeometry (height width : BitVec 8) (cs : List Check) :
    firstFailing (checkGeometry height width :: cs)
      = if 1 ≤ width.toInt ∧ (height.toInt = 1 ∨ height.toInt = 2 ∨ height.toInt = 4) then firstFailing cs
        else some .badGeometry := by
  simp only [firstFailing, checkGeometry_iff]
  rfl

@[simp] theorem firstFailing_checkColumn (x : BitVec 8) (cs : List Check) :
    firstFailing (checkColumn x :: cs) = if x.toInt < 0 then some .badOperand else firstFailing cs :=
  firstFailing_cons (decide_eq_true_iff.trans not_lt.symm) cs

@[simp] theorem firstFailing_checkLength (len : BitVec 8) (cs : List Check) :
    firstFailing (checkLength len :: cs) = if len = 0 then some .emptyPayload else firstFailing cs := by
  have positive : 1 ≤ len.toNat ↔ ¬ len = 0 := by
    rw [Nat.one_le_iff_ne_zero, BitVec.toNat_eq]; rfl
  exact firstFailing_cons (decide_eq_true_iff.trans positive) cs

@[simp] theorem firstFailing_checkTarget (x y : Int) (s : State) (cs : List Check) :
    firstFailing (checkTarget x y s :: cs) = if Overflows s x y then some .addressOverflow else firstFailing cs :=
  firstFailing_cons (decide_eq_true_iff.trans (by rw [Overflows, decide_eq_true_iff, not_lt])) cs

/-- Check 10 holds for the raw writer, and for a data frame that STAGE takes. -/
theorem checkStaging_iff (n : Nat) (s : State) :
    (checkStaging n s).1 = true ↔ (s.straps.transport = .block → 4 * n ≤ 64) := by
  cases h : s.straps.transport <;> simp [checkStaging, h]

theorem stageTooSmall_iff (n : Nat) (s : State) :
    StageTooSmall s n = true ↔ s.straps.transport = .block ∧ 64 < 4 * n := by
  rw [StageTooSmall, Bool.and_eq_true, beq_iff_eq, decide_eq_true_iff]
  exact and_congr_right' (by omega)

@[simp] theorem firstFailing_checkStaging (n : Nat) (s : State) (cs : List Check) :
    firstFailing (checkStaging n s :: cs) = if StageTooSmall s n then some .stagingOverflow else firstFailing cs :=
  firstFailing_cons (by rw [checkStaging_iff, stageTooSmall_iff, not_and, not_lt]) cs

/-! ## The rows of the table -/

theorem initChecks_table (on : Bool) (height width : BitVec 8) (s : State) :
    firstFailing (initChecks height width s) = refusalOf s (.init on height width) := by
  simp [initChecks, refusalOf]

theorem gotoChecks_table (y x : BitVec 8) (s : State) :
    firstFailing (gotoChecks y x s) = refusalOf s (.goto y x) := by
  simp [gotoChecks, refusalOf, sext8]

theorem printChecks_table (len y x : BitVec 8) (s : State) :
    firstFailing (printChecks len y x s) = refusalOf s (.print len y x) := by
  simp [printChecks, refusalOf, sext8, zext8, printLen]

theorem clearRowChecks_table (line : BitVec 8) (s : State) :
    firstFailing (clearRowChecks line s) = refusalOf s (.clearRow line) := by
  simp [clearRowChecks, refusalOf]

/-- CLEAR_ALL, BACKLIGHT and CONTROL have one row. -/
theorem readyChecks_table (line : BitVec 8) (s : State) :
    firstFailing (readyChecks s) = refusalOf s (.clearAll line) := by
  simp [readyChecks, refusalOf]

/-- An instruction that is admitted by the checks of its row and then runs: refused as the table says, or run. -/
theorem refusedOr_of_admitThen {i : Instr} {s : State} {cs : List Check}
    {run : State → Host.Outcome State Fault Refusal} {p : State → Prop} (execs : exec i s = admitThen cs s run)
    (table : firstFailing cs = refusalOf s i) (runs : firstFailing cs = none → ∃ t, run s = .next t ∧ p t) :
    RefusedOr s i p := by
  refine ⟨fun r refused => ?_, fun admitted => ?_⟩
  · rw [execs, admitThen_refused (table.trans refused)]; rfl
  · rw [execs, admitThen_admitted (table.trans admitted)]; exact runs (table.trans admitted)

/-- The same for an instruction whose body always ends in a next state. -/
theorem refusedOr_of_body {i : Instr} {s : State} {cs : List Check} (body : State → State) {p : State → Prop}
    (execs : exec i s = admitThen cs s fun s => .next (body s)) (table : firstFailing cs = refusalOf s i)
    (ends : firstFailing cs = none → p (body s)) : RefusedOr s i p :=
  refusedOr_of_admitThen execs table fun admitted => ⟨body s, rfl, ends admitted⟩

end Sys2Proof.Proofs.Admission

/-! # Protocol Engine: init, goto, print, clear, backlight, control -/

namespace Sys2Proof.Proofs.ProtocolEngine

open Sys2Proof.Laws Sys2Proof.Machine Sys2Proof.Safety Sys2Proof.Proofs.Admission

/-- Settles O6: the four rows by evaluation; a `y` outside them is none of the four. -/
theorem rowBaseOfEveryRow : Obligations.RowBaseOfEveryRow := by
  refine fun width y => ⟨rfl, rfl, rfl, rfl, fun outside => ?_⟩
  have row_ne : y ≠ 0 ∧ y ≠ 1 ∧ y ≠ 2 ∧ y ≠ 3 := by omega
  simp [rowBase, row_ne]

/-! ## What the parts of an operation leave alone, and how it ends -/

theorem keepsAllButFrame_of_onlyTransport {s t : State} (k : OnlyTransport s t) : KeepsAllButFrame s t :=
  ⟨⟨k.session, k.phase, k.path, k.addr⟩, ⟨k.width, k.height⟩, ⟨k.bl, k.disp, k.cur, k.blink⟩,
    ⟨k.cmd, k.straps, k.inbox, fun a => by rw [k.text]⟩, ⟨k.lineLen, fun a => by rw [k.line]⟩, k.resp, k.fault⟩

/-- The end of a command writes the response and idles the sequencer, and nothing else. -/
theorem endWith_eq (ok : Bool) (e : Err) (s : State) :
    endWith ok e s = { s with resp := if ok then Resp.success else Resp.failure e, seq := .idle } := by
  cases ok <;> rfl

/-- Of two frames the second says what STAGE holds. -/
theorem stageAfter_trans {m n : Nat} {s t u : State} (straps : t.straps = s.straps) (first : StageAfter m s t)
    (second : StageAfter n t u) : StageAfter n s u := by
  simp only [StageAfter, straps] at first second ⊢
  cases h : s.straps.transport <;> simp only [h] at first second ⊢
  · obtain ⟨len₁, bytes₁⟩ := first
    obtain ⟨len₂, bytes₂⟩ := second
    exact ⟨len₂.trans len₁, fun a => (bytes₂ a).trans (bytes₁ a)⟩
  · exact second

/-- One payload byte always fits STAGE. -/
theorem send_stage_one (mode : Mode) (bl : Bool) (b : Byte) (n : Nat) (s : State) :
    StageAfter (if mode = .startup then 2 else 4) s (send mode bl [b] n s).2 := by
  refine send_stage mode bl [b] n s fun _ => ?_
  rw [frameBytes_length, List.length_singleton]
  split <;> decide

/-! ## Operations of one command frame: goto, clear of the whole display, backlight, control -/

/-- A command frame and the end of the command on its answer. -/
theorem endWith_send_spec (bl : Bool) (b : Byte) (n : Nat) (s : State) {t : State}
    (ht : t = endWith (send .cmd bl [b] n s).1 .transportWrite (send .cmd bl [b] n s).2) :
    t.trace = s.trace ++ frameEvents s.straps .cmd bl [b] n ∧ Ended (frameGood s 0 0 4) .transportWrite s t ∧
      KeepsSession s t ∧ KeepsGeometry s t ∧ KeepsDisplay s t ∧ KeepsHost s t ∧ KeepsLine s t ∧ StageAfter 4 s t := by
  obtain ⟨session, geometry, display, host, line, -, fault⟩ :=
    keepsAllButFrame_of_onlyTransport (send_keeps .cmd bl [b] n s)
  rw [ht, send_answer, endWith_eq]
  exact ⟨send_trace .cmd bl [b] n s, ⟨rfl, fault, rfl⟩, session, geometry, display, host, line,
    send_stage_one .cmd bl b n s⟩

/-- Settles O26: the positioning send from the state that begins GOTO. -/
theorem gotoSendsTheSetAddressByte : Obligations.GotoSendsTheSetAddressByte := fun y x s =>
  refusedOr_of_body (runGoto y x) rfl (gotoChecks_table y x s) fun _ =>
    endWith_send_spec s.bl _ 0 (beginOp .goto s) rfl

/-- Settles O29: one send from the state that begins CLEAR, whatever the line. -/
theorem clearAllSendsOneByteWithTheLongSettle : Obligations.ClearAllSendsOneByteWithTheLongSettle := fun line s =>
  refusedOr_of_body runClearAll rfl (readyChecks_table line s) fun _ =>
    endWith_send_spec s.bl _ 2000 (beginOp .clearAll s) rfl

/-- Settles O31: one send from the state in which the flag is written already, which the send then keeps. -/
theorem backlightIsWrittenAndCarriedByItsFrame : Obligations.BacklightIsWrittenAndCarriedByItsFrame := by
  refine fun on s => refusedOr_of_body (runBacklight on) rfl (readyChecks_table 0 s) fun _ => ?_
  obtain ⟨trace, ended, session, geometry, ⟨bl, disp, cur, blink⟩, host, line, stage⟩ :=
    endWith_send_spec on 0x00#8 0 { beginOp .backlight s with bl := on } (t := runBacklight on s) rfl
  exact ⟨trace, ended, bl, disp, cur, blink, session, geometry, host, line, stage⟩

/-- The display-control byte as the byte of its number. -/
theorem controlByte_eq_ofNat (d c k : Bool) :
    controlByte d c k = BitVec.ofNat 8 (0x08 + d.toNat * 4 + c.toNat * 2 + k.toNat) := by
  rw [← Encoding.controlByte_toNat, BitVec.ofNat_toNat, BitVec.setWidth_eq]

/-- Settles O32: one send from the state in which the four flags are written already, which the send then keeps. -/
theorem controlIsWrittenAndCarriedByItsFrame : Obligations.ControlIsWrittenAndCarriedByItsFrame := by
  refine fun bl disp cur blink s =>
    refusedOr_of_body (runControl bl disp cur blink) rfl (readyChecks_table 0 s) fun _ => ?_
  obtain ⟨trace, ended, session, geometry, ⟨hbl, hdisp, hcur, hblink⟩, host, line, stage⟩ :=
    endWith_send_spec bl (controlByte disp cur blink) 0 (setDisplay bl disp cur blink (beginOp .control s))
      (t := runControl bl disp cur blink s) rfl
  rw [controlByte_eq_ofNat] at trace
  exact ⟨trace, ended, hbl, hdisp, hcur, hblink, session, geometry, host, line, stage⟩

/-! ## Operations that send LINE: print, clear of one row -/

/-- What a command that sends LINE with these bytes does, from the state in which it begins (42 R88, R90): the positioning
frame, the data frame if that is answered good, and its frame. -/
structure LineSent (x y : Int) (bytes : List Byte) (s t : State) : Prop where
  trace : t.trace = s.trace ++ frameEvents s.straps .cmd s.bl [targetByte s.width.toNat x y] 0
    ++ (if frameGood s 0 0 4 then frameEvents s.straps .data s.bl bytes 0 else [])
  ended : Ended (frameGood s 0 0 4 && frameGood s 4 1 (4 * bytes.length)) .transportWrite s t
  line : LineAfter bytes.length t
  stage : StageAfter (if frameGood s 0 0 4 then 4 * bytes.length else 4) s t
  session : KeepsSession s t
  geometry : KeepsGeometry s t
  display : KeepsDisplay s t
  host : KeepsHost s t

/-- The state after the positioning send over a filled LINE. -/
def positioned (x y : Int) (bytes : List Byte) (s : State) : State := (position x y (fillLine bytes s)).2

theorem positioned_keeps (x y : Int) (bytes : List Byte) (s : State) :
    OnlyTransport (fillLine bytes s) (positioned x y bytes s) := position_keeps x y _

theorem positioned_trace (x y : Int) (bytes : List Byte) (s : State) :
    (positioned x y bytes s).trace
      = s.trace ++ frameEvents s.straps .cmd s.bl [targetByte s.width.toNat x y] 0 :=
  send_trace _ _ _ _ (fillLine bytes s)

theorem positioned_stage (x y : Int) (bytes : List Byte) (s : State) : StageAfter 4 s (positioned x y bytes s) :=
  send_stage_one .cmd _ _ _ (fillLine bytes s)

/-- The data frame's answers come after those of the positioning frame. -/
theorem frameGood_positioned (x y : Int) (bytes : List Byte) (s : State) (n : Nat) :
    frameGood (positioned x y bytes s) 0 0 n = frameGood s 4 1 n :=
  frameGood_send _ _ _ _ (fillLine bytes s) 0 0 n

/-- The state after the command's frames: the data frame is made when the positioning frame is answered good. -/
def lineFrames (x y : Int) (bytes : List Byte) (s : State) : State :=
  if frameGood s 0 0 4 then (send .data s.bl bytes 0 (positioned x y bytes s)).2 else positioned x y bytes s

theorem lineFrames_keeps (x y : Int) (bytes : List Byte) (s : State) :
    OnlyTransport (fillLine bytes s) (lineFrames x y bytes s) := by
  unfold lineFrames
  split
  · exact (positioned_keeps x y bytes s).trans (send_keeps ..)
  · exact positioned_keeps x y bytes s

theorem lineFrames_trace (x y : Int) (bytes : List Byte) (s : State) :
    (lineFrames x y bytes s).trace = s.trace ++ frameEvents s.straps .cmd s.bl [targetByte s.width.toNat x y] 0
      ++ (if frameGood s 0 0 4 then frameEvents s.straps .data s.bl bytes 0 else []) := by
  have straps : (positioned x y bytes s).straps = s.straps := (positioned_keeps x y bytes s).straps
  unfold lineFrames
  split
  · rw [send_trace, positioned_trace, straps]
  · rw [positioned_trace, List.append_nil]

theorem lineFrames_stage (x y : Int) {bytes : List Byte} {s : State}
    (fits : s.straps.transport = .block → 4 * bytes.length ≤ 64) :
    StageAfter (if frameGood s 0 0 4 then 4 * bytes.length else 4) s (lineFrames x y bytes s) := by
  have straps : (positioned x y bytes s).straps = s.straps := (positioned_keeps x y bytes s).straps
  have first := positioned_stage x y bytes s
  unfold lineFrames
  split
  · refine stageAfter_trans straps first (send_stage .data s.bl bytes 0 _ fun block => ?_)
    rw [frameBytes_length]
    exact fits (straps ▸ block)
  · exact first

/-- `sendLine` makes these frames, the second with the bytes LINE was filled with, and ends on their answers. -/
theorem sendLine_eq (x y : Int) (bytes : List Byte) (s : State) :
    sendLine x y bytes s = dropLine
      (endWith (frameGood s 0 0 4 && frameGood s 4 1 (4 * bytes.length)) .transportWrite (lineFrames x y bytes s)) := by
  have answer : (position x y (fillLine bytes s)).1 = frameGood s 0 0 4 := send_answer _ _ _ _ (fillLine bytes s)
  have kept := positioned_keeps x y bytes s
  have filled : lineBytes bytes.length (positioned x y bytes s) = bytes := lineBytes_fillLine bytes s kept.line
  have bl : (positioned x y bytes s).bl = s.bl := kept.bl
  have second : (send .data s.bl bytes 0 (positioned x y bytes s)).1 = frameGood s 4 1 (4 * bytes.length) := by
    rw [send_answer]; exact frameGood_positioned x y bytes s _
  simp only [positioned] at filled bl second
  simp only [sendLine, lineFrames, positioned, answer, filled, bl, second]
  cases frameGood s 0 0 4 <;> rfl

/-- LINE's length register takes every length up to the widest display's. -/
theorem lineAfter_fillLine {bytes : List Byte} (short : bytes.length < 128) (s : State) :
    LineAfter bytes.length (fillLine bytes s) := by
  simp only [LineAfter, fillLine_fields, BitVec.toNat_ofNat]; omega

/-- The specification of `sendLine`, for bytes that fit LINE and, with the block writer, STAGE. -/
theorem sendLine_spec (x y : Int) {bytes : List Byte} {s : State} (short : bytes.length < 128)
    (fits : s.straps.transport = .block → 4 * bytes.length ≤ 64) : LineSent x y bytes s (sendLine x y bytes s) := by
  obtain ⟨session, geometry, display, host, ⟨lineLen, -⟩, -, fault⟩ :=
    keepsAllButFrame_of_onlyTransport (lineFrames_keeps x y bytes s)
  rw [sendLine_eq, endWith_eq]
  exact {
    trace := lineFrames_trace x y bytes s
    ended := ⟨rfl, fault, rfl⟩
    line := (congrArg BitVec.toNat lineLen).trans (lineAfter_fillLine short s)
    stage := lineFrames_stage x y fits
    session, geometry, display, host }

/-- Column 0 adds nothing to the row base. -/
theorem targetSum_zero (width : Nat) (y : Int) : targetSum width 0 y = rowBase width y := by
  simp [targetSum, clampCol]

/-- Settles O30: LINE sent with `width` spaces; check 10 is why they fit STAGE. -/
theorem clearRowSendsWidthSpaces : Obligations.ClearRowSendsWidthSpaces := by
  intro line s row _ _ row_eq
  obtain rfl : row = clearRowOf line s := row_eq
  refine refusedOr_of_body (runClearRow line) rfl (clearRowChecks_table line s) fun admitted => ?_
  have fits := (checkStaging_iff s.width.toNat s).1 (firstFailing_none.1 admitted _ (by simp [clearRowChecks]))
  have spaces : (List.replicate s.width.toNat 0x20#8).length = s.width.toNat := List.length_replicate
  obtain ⟨trace, ended, lineLen, stage, session, geometry, display, host⟩ :=
    sendLine_spec 0 (clearRowOf line s) (bytes := List.replicate s.width.toNat 0x20#8) (s := beginOp .clearRow s)
      (by rw [spaces]; exact s.width.isLt) (by rw [spaces]; exact fits)
  rw [spaces] at ended lineLen stage
  rw [targetByte, targetSum_zero] at trace
  exact ⟨trace, ended, lineLen, stage, session, geometry, display, host⟩

/-- PRINT runs on the bytes it reads when they have been written. -/
theorem runPrint_of_written {len y x : BitVec 8} {s : State} {text : List Byte} (length : text.length = printLen len s)
    (written : ∀ k, k < text.length → s.text.read k = text[k]?) :
    runPrint len y x s = .next (sendLine (sext8 x) (sext8 y) text (beginOp .print s)) := by
  have reads : s.text.readFrom 0 (printLen len s) = some text :=
    length ▸ readFrom_eq s.text 0 text (by simpa only [Nat.zero_add] using written)
  simp only [runPrint, reads]

/-- Settles O27: LINE sent with the bytes read from TEXT; check 10 is why they fit STAGE. -/
theorem printSendsTheFirstWidthCharacters : Obligations.PrintSendsTheFirstWidthCharacters := by
  intro len y x s n text hn written
  refine refusedOr_of_admitThen (run := runPrint len y x) rfl (printChecks_table len y x s) fun admitted => ?_
  have fits := (checkStaging_iff (printLen len s) s).1 (firstFailing_none.1 admitted _ (by simp [printChecks]))
  obtain ⟨-, rfl, readable⟩ := written ((printChecks_table len y x s).symm.trans admitted)
  have length : text.length = printLen len s := hn
  have short : text.length < 128 := by have := s.width.isLt; omega
  refine ⟨_, runPrint_of_written length readable, ?_⟩
  obtain ⟨trace, ended, line, stage, session, geometry, display, host⟩ :=
    sendLine_spec (sext8 x) (sext8 y) (s := beginOp .print s) short (length ▸ fits)
  exact ⟨trace, ended, line, stage, session, geometry, display, host⟩

/-! ## init: its sends in order -/

/-- The TransportBytes of a step's frame (30 R46, R47): 2 for a startup frame, else 4. -/
def stepBytes (st : InitStep) : Nat := if st.mode = .startup then 2 else 4

/-- Every send of these steps, run from here, is answered good; each of them is one block write (41 R73). -/
def stepsGood (sts : List InitStep) (s : State) : Bool :=
  match s.straps.transport with
  | .raw => writesGood s 0 (sts.map stepBytes).sum
  | .block => codesGood s 0 sts.length

theorem stepsGood_initTable (s : State) : stepsGood initTable s = initGood s := rfl

/-- Good answers to a run of writes are good answers to its parts. -/
theorem writesGood_add (s : State) (off m n : Nat) :
    writesGood s off (m + n) = (writesGood s off m && writesGood s (off + m) n) := by
  simp only [writesGood, List.range_add, List.all_append, List.all_map, Function.comp_def, Nat.add_assoc]

theorem codesGood_add (s : State) (off m n : Nat) :
    codesGood s off (m + n) = (codesGood s off m && codesGood s (off + m) n) := by
  simp only [codesGood, List.range_add, List.all_append, List.all_map, Function.comp_def, Nat.add_assoc]

/-- One send of init. -/
def sendStep (on : Bool) (st : InitStep) (s : State) : Bool × State := send st.mode (st.bl on) [st.byte] st.settle s

theorem sendStep_answer (on : Bool) (st : InitStep) (s : State) :
    (sendStep on st s).1 = frameGood s 0 0 (stepBytes st) := send_answer _ _ _ _ s

theorem sendStep_straps (on : Bool) (st : InitStep) (s : State) : (sendStep on st s).2.straps = s.straps :=
  (send_keeps _ _ _ _ s).straps

theorem sendStep_stage (on : Bool) (st : InitStep) (s : State) : StageAfter (stepBytes st) s (sendStep on st s).2 :=
  send_stage_one _ _ _ _ s

theorem runSteps_cons (on : Bool) (st : InitStep) (rest : List InitStep) (s : State) :
    runSteps on (st :: rest) s
      = ((if (sendStep on st s).1 then 1 else 0) + (runSteps on rest (sendStep on st s).2).1,
          (runSteps on rest (sendStep on st s).2).2) := rfl

/-- A step's frame is good, and the later steps' are after it. -/
theorem stepsGood_cons (on : Bool) (st : InitStep) (rest : List InitStep) (s : State) :
    stepsGood (st :: rest) s = ((sendStep on st s).1 && stepsGood rest (sendStep on st s).2) := by
  rw [sendStep_answer]
  simp only [stepsGood, frameGood, sendStep_straps]
  cases h : s.straps.transport
  case raw =>
    have later : ∀ k, boolAt (sendStep on st s).2 k = boolAt s (stepBytes st + k) := fun k => boolAt_send _ _ _ _ s k h
    simp only [List.map_cons, List.sum_cons, writesGood_add]
    simp only [writesGood, later, Nat.zero_add]
  case block =>
    have one_block : chunkCount (stepBytes st) = 1 := by unfold stepBytes; split <;> rfl
    have later : ∀ k, codeAt (sendStep on st s).2 k = codeAt s (1 + k) := fun k =>
      one_block ▸ codeAt_send _ _ _ _ s k h
    simp only [one_block, List.length_cons, Nat.add_comm rest.length, codesGood_add]
    simp only [codesGood, later, Nat.zero_add]

theorem runSteps_count_le (on : Bool) (sts : List InitStep) (s : State) : (runSteps on sts s).1 ≤ sts.length := by
  induction sts generalizing s with
  | nil => exact Nat.le_refl 0
  | cons st rest ih =>
    have := ih (sendStep on st s).2
    rw [runSteps_cons, List.length_cons]
    dsimp only
    split <;> omega

/-- The count is that of the steps exactly when every send succeeds (42 R83). -/
theorem runSteps_count_iff (on : Bool) (sts : List InitStep) (s : State) :
    (runSteps on sts s).1 = sts.length ↔ stepsGood sts s = true := by
  induction sts generalizing s with
  | nil => cases h : s.straps.transport <;> simp [runSteps, stepsGood, h, writesGood, codesGood]
  | cons st rest ih =>
    have le := runSteps_count_le on rest (sendStep on st s).2
    rw [stepsGood_cons on, Bool.and_eq_true, ← ih, runSteps_cons, List.length_cons]
    cases (sendStep on st s).1
    case false => simp only [Bool.false_eq_true, if_false, false_and, iff_false]; omega
    case true => simp only [if_true, true_and]; omega

/-- Every step's frame is made, in order, whatever the answers (42 R81). -/
theorem runSteps_trace (on : Bool) (sts : List InitStep) (s : State) :
    (runSteps on sts s).2.trace
      = s.trace ++ sts.flatMap fun st => frameEvents s.straps st.mode (st.bl on) [st.byte] st.settle := by
  induction sts generalizing s with
  | nil => exact (List.append_nil _).symm
  | cons st rest ih =>
    have first : (sendStep on st s).2.trace
        = s.trace ++ frameEvents s.straps st.mode (st.bl on) [st.byte] st.settle := send_trace _ _ _ _ s
    rw [runSteps_cons]
    simp only [ih, sendStep_straps, first, List.flatMap_cons, List.append_assoc]

/-- STAGE holds what the last step leaves. -/
theorem runSteps_stage (on : Bool) (sts : List InitStep) (last : InitStep) (s : State) :
    StageAfter (stepBytes last) s (runSteps on (sts ++ [last]) s).2 := by
  induction sts generalizing s with
  | nil => exact sendStep_stage on last s
  | cons st rest ih => exact stageAfter_trans (sendStep_straps on st s) (sendStep_stage on st s) (ih _)

theorem initTable_events (st : Straps) (on : Bool) :
    (initTable.flatMap fun l => frameEvents st l.mode (l.bl on) [l.byte] l.settle) = initEvents st on := by
  simp [initTable, initEvents, initLines, InitStep.bl, Config.initSteps]

/-- The state after the nine sends. -/
def initSent (on : Bool) (height width : BitVec 8) (s : State) : State :=
  (runSteps on initTable (beginOp .init (setGeometry height width s))).2

theorem initSent_keeps (on : Bool) (height width : BitVec 8) (s : State) :
    OnlyTransport (setGeometry height width s) (initSent on height width s) :=
  OnlyTransport.trans (by constructor <;> rfl) (runSteps_keeps on initTable (beginOp .init (setGeometry height width s)))

theorem initSent_trace (on : Bool) (height width : BitVec 8) (s : State) :
    (initSent on height width s).trace = s.trace ++ initEvents s.straps on := by
  rw [← initTable_events]; exact runSteps_trace on initTable (beginOp .init (setGeometry height width s))

theorem initSent_stage (on : Bool) (height width : BitVec 8) (s : State) :
    StageAfter 4 s (initSent on height width s) :=
  runSteps_stage on initTable.dropLast ⟨9, .cmd, 0x0C, 100⟩ (beginOp .init (setGeometry height width s))

/-- INIT after its sends: the DisplayState in both outcomes, the phase on success only (42 R83, R84). -/
theorem runInit_eq (on : Bool) (height width : BitVec 8) (s : State) :
    runInit on height width s = endWith (initGood s) .initSequenceIncomplete
      { setDisplay on true false false (initSent on height width s) with
        phase := if initGood s then .ready else (initSent on height width s).phase } := by
  have all_sent : (runSteps on initTable (beginOp .init (setGeometry height width s))).1 = Config.initSteps
      ↔ initGood s = true := by
    rw [← stepsGood_initTable]; exact runSteps_count_iff on initTable (beginOp .init (setGeometry height width s))
  simp only [runInit, all_sent]
  cases initGood s <;> rfl

/-- An operand that fits a register unsigned is what the register then holds (10_state R13). -/
theorem setWidth_toNat_of_toInt {v : BitVec 8} {k : Nat} (nonneg : 0 ≤ v.toInt) (fits : v.toInt < 2 ^ k) :
    ((v.setWidth k).toNat : Int) = v.toInt := by
  have unsigned : v.toInt = v.toNat := BitVec.toInt_eq_toNat_of_msb (BitVec.msb_eq_false_iff_two_mul_lt.2 (by
    have := BitVec.toInt_eq_toNat_cond v; omega))
  rw [BitVec.toNat_setWidth, unsigned, Nat.mod_eq_of_lt (by exact_mod_cast unsigned ▸ fits)]

/-- Settles O24: the nine sends from the state in which the geometry is written, which they keep. -/
theorem initRunsNineSendsAndCountsThem : Obligations.InitRunsNineSendsAndCountsThem := by
  intro on height width s
  refine refusedOr_of_body (runInit on height width) rfl (initChecks_table on height width s) fun admitted => ?_
  have checks := firstFailing_none.1 admitted
  have uninitialized : s.phase = .uninitialized := eq_of_beq (checks (checkUninitialized s) (by simp [initChecks]))
  obtain ⟨width_pos, height_legal⟩ :=
    (checkGeometry_iff height width).1 (checks (checkGeometry height width) (by simp [initChecks]))
  obtain ⟨⟨session, phase, path, addr⟩, ⟨hwidth, hheight⟩, -, host, line, -, fault⟩ :=
    keepsAllButFrame_of_onlyTransport (initSent_keeps on height width s)
  have width_holds : ((initSent on height width s).width.toNat : Int) = width.toInt := by
    rw [hwidth]; exact setWidth_toNat_of_toInt (by omega) (by have := BitVec.toInt_lt (x := width); omega)
  have height_holds : ((initSent on height width s).height.toNat : Int) = height.toInt := by
    rw [hheight]; exact setWidth_toNat_of_toInt (by omega) (by omega)
  have trace := initSent_trace on height width s
  have stage := initSent_stage on height width s
  rw [runInit_eq, endWith_eq, phase.trans uninitialized]
  -- The sends stay closed: a field of this state would otherwise be computed by running them.
  generalize initSent on height width s = sent at *
  exact ⟨trace, ⟨rfl, fault, rfl⟩, rfl, width_holds, height_holds, rfl, rfl, rfl, rfl, session, path, addr, host, line, stage⟩

end Sys2Proof.Proofs.ProtocolEngine

/-! # Device Session: open and close -/

namespace Sys2Proof.Proofs.DeviceSession

open Sys2Proof.Laws Sys2Proof.Machine Sys2Proof.Safety Sys2Proof.Proofs.Admission Sys2Proof.Proofs.ProtocolEngine

/-! ## The admission of OPEN (42 R80) -/

@[simp] theorem firstFailing_checkClosed (s : State) (cs : List Check) :
    firstFailing (checkClosed s :: cs) = if s.session = .opened then some .sessionBusy else firstFailing cs :=
  firstFailing_cons (by cases h : s.session <;> simp [checkClosed, h]) cs

theorem openChecks_table (path : BitVec 8) (address : BitVec 7) (s : State) :
    firstFailing (openChecks s) = refusalOf s (.openDev path address) := by
  simp [openChecks, refusalOf]

/-! ## The channel's session calls (20 R26) -/

/-- What the session calls leave alone: they send no frame, so STAGE is theirs to keep too. -/
def CallKeeps (s t : State) : Prop := OnlyTransport s t ∧ KeepsStage s t

theorem CallKeeps.trans {s t u : State} (h : CallKeeps s t) (k : CallKeeps t u) : CallKeeps s u := by
  obtain ⟨transport₁, len₁, bytes₁⟩ := h
  obtain ⟨transport₂, len₂, bytes₂⟩ := k
  exact ⟨transport₁.trans transport₂, len₂.trans len₁, fun a => (bytes₂ a).trans (bytes₁ a)⟩

theorem beginOp_keeps (op : Op) (s : State) : CallKeeps s (beginOp op s) :=
  ⟨by constructor <;> rfl, rfl, fun _ => rfl⟩

theorem release_keeps (s : State) : CallKeeps s (chanRelease s) := ⟨chanRelease_keeps s, rfl, fun _ => rfl⟩

/-- What a session call that answers does: it takes the next coming answer and appends its event, and its frame. -/
structure Called (e : Event) (s : State) (r : Bool × State) : Prop where
  answer : r.1 = boolAt s 0
  trace : r.2.trace = s.trace ++ [e]
  next : ∀ k, boolAt r.2 k = boolAt s (k + 1)
  keeps : CallKeeps s r.2

theorem nextBool_emit_called (e : Event) (s : State) : Called e s (nextBool (emit e s)) where
  answer := (nextBool_answer _).trans (boolAt_congr rfl rfl 0)
  trace := nextBool_trace _
  next := fun k => (boolAt_nextBool _ k).trans (boolAt_congr rfl rfl _)
  keeps := by
    obtain ⟨stage, stageLen⟩ := nextBool_stage (emit e s)
    exact ⟨(emit_keeps e s).trans (nextBool_keeps _), stageLen, fun a => by rw [stage]; rfl⟩

theorem chanOpen_called (path : BitVec 8) (s : State) : Called (.chanOpen path) s (chanOpen path s) :=
  nextBool_emit_called _ s

theorem chanBind_called (address : BitVec 7) (s : State) : Called (.bind address) s (chanBind address s) :=
  nextBool_emit_called _ s

/-! ## OPEN (43 R96, R97) -/

/-- The state after the channel open that begins OPEN. -/
def opened (path : BitVec 8) (s : State) : State := (chanOpen path (beginOp .openDev s)).2

/-- The state after the bind that follows a good channel open. -/
def bound (path : BitVec 8) (address : BitVec 7) (s : State) : State := (chanBind address (opened path s)).2

/-- OPEN's three outcomes, by the channel's two answers. -/
theorem runOpen_eq (path : BitVec 8) (address : BitVec 7) (s : State) :
    runOpen path address s =
      if boolAt s 0 then
        if boolAt s 1 then endSuccess (beginSession path address (bound path address s))
        else endFailure .addressBind (chanRelease (bound path address s))
      else endFailure .channelOpen (opened path s) := by
  have open_called := chanOpen_called path (beginOp .openDev s)
  have open_answer : (chanOpen path (beginOp .openDev s)).1 = boolAt s 0 := open_called.answer
  have bind_answer : (chanBind address (opened path s)).1 = boolAt s 1 :=
    (chanBind_called address (opened path s)).answer.trans (open_called.next 0)
  rw [← bind_answer, ← open_answer]
  rfl

theorem opened_trace (path : BitVec 8) (s : State) : (opened path s).trace = s.trace ++ [.chanOpen path] :=
  (chanOpen_called path (beginOp .openDev s)).trace

theorem opened_keeps (path : BitVec 8) (s : State) : CallKeeps s (opened path s) :=
  (beginOp_keeps .openDev s).trans (chanOpen_called path (beginOp .openDev s)).keeps

theorem bound_trace (path : BitVec 8) (address : BitVec 7) (s : State) :
    (bound path address s).trace = s.trace ++ [.chanOpen path, .bind address] := by
  rw [bound, (chanBind_called address (opened path s)).trace, opened_trace, List.append_assoc]
  rfl

theorem bound_keeps (path : BitVec 8) (address : BitVec 7) (s : State) : CallKeeps s (bound path address s) :=
  (opened_keeps path s).trans (chanBind_called address (opened path s)).keeps

theorem released_trace (path : BitVec 8) (address : BitVec 7) (s : State) :
    (chanRelease (bound path address s)).trace = s.trace ++ [.chanOpen path, .bind address, .release] := by
  simp [bound_trace]

theorem released_keeps (path : BitVec 8) (address : BitVec 7) (s : State) :
    CallKeeps s (chanRelease (bound path address s)) :=
  (bound_keeps path address s).trans (release_keeps _)

/-- A failed OPEN leaves the session registers as they were. -/
theorem endFailure_keepsSession (e : Err) {s u : State} (keeps : CallKeeps s u) : KeepsSession s (endFailure e u) := by
  obtain ⟨session, -⟩ := keepsAllButFrame_of_onlyTransport keeps.1
  exact session

/-- What every outcome of OPEN leaves alone, and the sequencer idle. -/
def OpenFrame (s t : State) : Prop :=
  t.fault = s.fault ∧ t.seq = .idle ∧
    KeepsGeometry s t ∧ KeepsDisplay s t ∧ KeepsHost s t ∧ KeepsLine s t ∧ KeepsStage s t

/-- OPEN ends by writing no more than the session registers, the response and the sequencer. -/
theorem openFrame_of_callKeeps {s u t : State} (keeps : CallKeeps s u)
    (ends : t = { u with session := t.session, phase := t.phase, path := t.path, addr := t.addr, resp := t.resp,
                         seq := .idle }) : OpenFrame s t := by
  obtain ⟨transport, stage⟩ := keeps
  obtain ⟨-, geometry, display, host, line, -, fault⟩ := keepsAllButFrame_of_onlyTransport transport
  rw [ends]
  exact ⟨fault, rfl, geometry, display, host, line, stage⟩

/-- Settles O22: the three outcomes by the channel's two answers, each from the state its calls leave. -/
theorem openBindsOrReportsTheFailedStep : Obligations.OpenBindsOrReportsTheFailedStep := by
  refine fun path address s =>
    refusedOr_of_body (runOpen path address) rfl (openChecks_table path address s) fun _ => ?_
  rw [runOpen_eq]
  cases boolAt s 0
  case false =>
    have keeps := opened_keeps path s
    exact ⟨opened_trace path s, rfl, endFailure_keepsSession _ keeps, openFrame_of_callKeeps keeps rfl⟩
  case true =>
    cases boolAt s 1
    case false =>
      have keeps := released_keeps path address s
      exact ⟨released_trace path address s, rfl, endFailure_keepsSession _ keeps, openFrame_of_callKeeps keeps rfl⟩
    case true =>
      have keeps := bound_keeps path address s
      exact ⟨bound_trace path address s, rfl, ⟨rfl, rfl, rfl, rfl⟩, openFrame_of_callKeeps keeps rfl⟩

/-! ## CLOSE (43 R98) -/

theorem execClose_closed {s : State} (h : s.session = .closed) : exec .close s = .next (endSuccess s) := by
  simp [exec, execClose, h]

theorem execClose_opened {s : State} (h : s.session = .opened) : exec .close s = .next (runClose s) := by
  simp [exec, execClose, h]

/-- The state from which CLOSE sends its frame: the backlight flag is 0 already. -/
def closing (s : State) : State := { beginOp .close s with bl := false }

/-- Settles O23: with a session, one send from the state in which the backlight is off already, and the release. -/
theorem closeReleasesAndNeverFails : Obligations.CloseReleasesAndNeverFails := by
  refine fun s => ⟨execClose_closed, fun session => ⟨runClose s, execClose_opened session, ?_⟩⟩
  have trace := send_trace .cmd false [0x00#8] 0 (closing s)
  have stage := send_stage_one .cmd false 0x00#8 0 (closing s)
  obtain ⟨⟨-, -, path, addr⟩, geometry, ⟨bl, disp, cur, blink⟩, host, line, -, fault⟩ :=
    keepsAllButFrame_of_onlyTransport (send_keeps .cmd false [0x00#8] 0 (closing s))
  rw [runClose, ← closing]
  -- The send stays closed: a field of this state would otherwise be computed by running it.
  generalize (send .cmd false [0x00#8] 0 (closing s)).2 = sent at *
  exact ⟨congrArg (· ++ [Event.release]) trace, rfl, fault, rfl, rfl, rfl, path, addr, bl, disp, cur, blink, geometry,
    host, line, stage⟩

end Sys2Proof.Proofs.DeviceSession

/-! # Reset and Hazards: the step that takes a reset -/

namespace Sys2Proof.Proofs.ResetAndHazards

open Sys2Proof.Laws Sys2Proof.Machine

/-- Reset is done in the one step that takes it from the queue (70 R122). -/
theorem step_of_resetPulse {s : State} {rest : List Input} (hin : s.inbox = .resetPulse :: rest) :
    step s = .next (resetPulse { s with inbox := rest }) := by
  simp only [step, fetch, hin]

/-- Settles O43: the state the step answers has the reset values of 10_state R24 in the engine's fields, and the trace,
the parameters and the rest of the queue from before. -/
theorem resetPulseClosesTheEngine : Obligations.ResetPulseClosesTheEngine := by
  refine fun s rest hin => ⟨resetPulse { s with inbox := rest }, step_of_resetPulse hin, ?_⟩
  simp only [resetPulse_fields, and_true]
  decide

end Sys2Proof.Proofs.ResetAndHazards

/-! # Round trip: a well-formed instruction and its word -/

namespace Sys2Proof.Proofs.RoundTrip

open Sys2Proof.Decode Sys2Proof.Laws Sys2Proof.Machine Sys2Proof.Proofs.Encoding

/-! ## Fields and bits as numbers -/

theorem bit_toNat (i : Nat) (w : Word) : (w.getLsbD i).toNat = w.toNat / 2 ^ i % 2 := by
  rw [bit_eq]
  rcases Nat.mod_two_eq_zero_or_one (w.toNat / 2 ^ i) with h | h <;> simp [h]

theorem bit_eq_iff (i : Nat) (w : Word) (b : Bool) : w.getLsbD i = b ↔ w.toNat / 2 ^ i % 2 = b.toNat := by
  rw [← bit_toNat]
  exact ⟨congrArg Bool.toNat, fun h => by cases b <;> cases hw : w.getLsbD i <;> simp_all⟩

theorem msb_eq_bit (v : BitVec 8) : v.msb = decide (v.toNat / 2 ^ 7 % 2 = 1) := by
  rw [BitVec.msb_eq_getLsbD_last, BitVec.getLsbD, Nat.testBit_eq_decide_div_mod_eq]

/-- The sign bit of `line` is bit 7 of the word. -/
theorem msb_field (w : Word) : (field 0 8 w).msb = w.getLsbD 7 := by
  rw [msb_eq_bit, field_toNat, bit_eq]
  exact decide_eq_decide.2 (by omega)

theorem whenZero_eq_ok_iff (zeros : Bool) (i j : Instr) : whenZero zeros i = .ok j ↔ zeros = true ∧ i = j := by
  cases zeros <;> simp [whenZero]

theorem field_beq_iff (lo n : Nat) (w : Word) : (field lo n w == 0#n) = true ↔ w.toNat / 2 ^ lo % 2 ^ n = 0 := by
  rw [beq_iff_eq, field_eq_iff, BitVec.toNat_ofNat, Nat.zero_mod]

/-! ## The word of an instruction decodes to it -/

/-- A host word whose operands fit is read by the row of its `OP`. -/
theorem decode_hostWord {op operands : Nat} {i : Instr} (hop : op < 8) (fits : operands < 2 ^ 28)
    (row : ∀ w : Word, w.toNat = op * 2 ^ 28 + operands → hostRow op w = .ok i) :
    decode .host32 (hostWord op operands) = .ok i := by
  have number : (hostWord op operands).toNat = op * 2 ^ 28 + operands := hostWord_toNat (by omega)
  have high : (op * 2 ^ 28 + operands) / 2 ^ 28 = op := by omega
  rw [show decode .host32 = host from rfl, host_eq_hostRow, number, if_neg (by omega), high]
  exact row _ number

/-- A wire word of 8 bits is read by its format's decoder. -/
theorem decode_wireWord {bits : Nat} {f : Format} {read : Word → Decoded} {i : Instr}
    (reads : ∀ w, decode f w = if field 8 24 w = 0#24 then read w else .bad .tooWide) (fits : bits < 2 ^ 8)
    (row : ∀ w : Word, w.toNat = bits → read w = .ok i) : decode f (wireWord bits) = .ok i := by
  have number : (wireWord bits).toNat = bits := wireWord_toNat (by omega)
  have narrow : field 8 24 (wireWord bits) = 0#24 := by
    rw [field_eq_iff, number, BitVec.toNat_ofNat]; omega
  rw [reads, if_pos narrow]
  exact row _ number

theorem decode_encode_openDev (path : BitVec 8) (address : BitVec 7) :
    decode .host32 (encode (.openDev path address)) = .ok (.openDev path address) := by
  have := path.isLt
  have := address.isLt
  refine decode_hostWord (by omega) (by omega) fun w hw => ?_
  simp only [hostRow, openRow, whenZero_eq_ok_iff, Bool.and_eq_true, field_beq_iff, Instr.openDev.injEq, field_eq_iff]
  omega

theorem decode_encode_init (on : Bool) (height width : BitVec 8) :
    decode .host32 (encode (.init on height width)) = .ok (.init on height width) := by
  have := on.toNat_le
  have := height.isLt
  have := width.isLt
  refine decode_hostWord (by omega) (by omega) fun w hw => ?_
  simp only [hostRow, initRow, whenZero_eq_ok_iff, field_beq_iff, Instr.init.injEq, field_eq_iff, bit_eq_iff]
  omega

theorem decode_encode_goto (y x : BitVec 8) : decode .host32 (encode (.goto y x)) = .ok (.goto y x) := by
  have := y.isLt
  have := x.isLt
  refine decode_hostWord (by omega) (by omega) fun w hw => ?_
  simp only [hostRow, gotoRow, whenZero_eq_ok_iff, field_beq_iff, Instr.goto.injEq, field_eq_iff]
  omega

theorem decode_encode_print (len y x : BitVec 8) :
    decode .host32 (encode (.print len y x)) = .ok (.print len y x) := by
  have := len.isLt
  have := y.isLt
  have := x.isLt
  refine decode_hostWord (by omega) (by omega) fun w hw => ?_
  simp only [hostRow, printRow, whenZero_eq_ok_iff, field_beq_iff, Instr.print.injEq, field_eq_iff]
  omega

/-- The two rows of CLEAR have one word form; the sign of `line` names the row (30 R53). -/
theorem decode_hostWord_line (line : BitVec 8) :
    decode .host32 (hostWord 0x4 line.toNat) = .ok (if line.msb then .clearAll line else .clearRow line) := by
  have := line.isLt
  refine decode_hostWord (by omega) (by omega) fun w hw => ?_
  have operand : field 0 8 w = line := (field_eq_iff ..).2 (by omega)
  have zeros : (field 8 20 w == 0#20) = true := (field_beq_iff ..).2 (by omega)
  simp only [hostRow, Decode.clearRow, whenZero_eq_ok_iff, zeros, ← msb_field, operand, true_and]

theorem decode_encode_backlight (on : Bool) : decode .host32 (encode (.backlight on)) = .ok (.backlight on) := by
  have := on.toNat_le
  refine decode_hostWord (by omega) (by omega) fun w hw => ?_
  simp only [hostRow, backlightRow, whenZero_eq_ok_iff, field_beq_iff, Instr.backlight.injEq, bit_eq_iff]
  omega

theorem decode_encode_control (bl d c k : Bool) :
    decode .host32 (encode (.control bl d c k)) = .ok (.control bl d c k) := by
  have := bl.toNat_le
  have := d.toNat_le
  have := c.toNat_le
  have := k.toNat_le
  refine decode_hostWord (by omega) (by omega) fun w hw => ?_
  simp only [hostRow, controlRow, whenZero_eq_ok_iff, field_beq_iff, Instr.control.injEq, bit_eq_iff]
  omega

theorem decode_encode_tbyte (rs en bl : Bool) (nibble : BitVec 4) :
    decode .tbyte8 (encode (.tbyte rs en bl nibble)) = .ok (.tbyte rs en bl nibble) := by
  have := rs.toNat_le
  have := en.toNat_le
  have := bl.toNat_le
  have := nibble.isLt
  refine decode_wireWord (fun _ => rfl) (by omega) fun w hw => ?_
  have write : w.getLsbD 6 = false := (bit_eq_iff ..).2 (by simp only [Bool.toNat_false]; omega)
  simp only [tbyte, write, Bool.false_eq_true, if_false, Decoded.ok.injEq, Instr.tbyte.injEq, bit_eq_iff, field_eq_iff]
  omega

theorem decode_encode_lcdDisplayControl (d c k : Bool) :
    decode .lcd8 (encode (.lcdDisplayControl d c k)) = .ok (.lcdDisplayControl d c k) := by
  revert d c k; decide

theorem decode_encode_lcdSetAddress (offset : BitVec 7) :
    decode .lcd8 (encode (.lcdSetAddress offset)) = .ok (.lcdSetAddress offset) := by
  have := offset.isLt
  refine decode_wireWord (fun _ => rfl) (by omega) fun w hw => ?_
  have high : field 7 1 w = 1#1 := (field_eq_iff ..).2 (by simp only [BitVec.toNat_ofNat]; omega)
  simp only [commandByte, high, if_true, Decoded.ok.injEq, Instr.lcdSetAddress.injEq, field_eq_iff]
  omega

theorem decode_encode_lcdData (code : BitVec 8) : decode .lcd8data (encode (.lcdData code)) = .ok (.lcdData code) := by
  have := code.isLt
  refine decode_wireWord (read := fun w => .ok (.lcdData (field 0 8 w))) (fun _ => rfl) (by omega) fun w hw => ?_
  simp only [Decoded.ok.injEq, Instr.lcdData.injEq, field_eq_iff]
  omega

/-- Settles O1: row by row, each field is read where the encoder put it. -/
theorem decodeOfEncodeIsTheInstruction : Obligations.DecodeOfEncodeIsTheInstruction := by
  intro i wf
  cases i with
  | openDev path address => exact decode_encode_openDev path address
  | init on height width => exact decode_encode_init on height width
  | goto y x => exact decode_encode_goto y x
  | print len y x => exact decode_encode_print len y x
  | clearAll line => exact (decode_hostWord_line line).trans (by rw [if_pos (show line.msb = true from wf)])
  | clearRow line =>
    have positive : ¬ line.msb = true := by simpa [Instr.wf] using wf
    exact (decode_hostWord_line line).trans (by rw [if_neg positive])
  | backlight on => exact decode_encode_backlight on
  | control bl d c k => exact decode_encode_control bl d c k
  | close => decide
  | tbyte rs en bl nibble => exact decode_encode_tbyte rs en bl nibble
  | lcdWake => decide
  | lcdMode4 => decide
  | lcdFunctionSet => decide
  | lcdClearDisplay => decide
  | lcdEntryMode => decide
  | lcdDisplayControl d c k => exact decode_encode_lcdDisplayControl d c k
  | lcdBacklightCarrier => decide
  | lcdSetAddress offset => exact decode_encode_lcdSetAddress offset
  | lcdData code => exact decode_encode_lcdData code

/-! ## A word that decodes is the word of its instruction -/

/-- What the decoder promises of an instruction it reads from a word in a format. -/
def IsWordOf (f : Format) (w : Word) (i : Instr) : Prop := i.wf = true ∧ i.format = f ∧ encode i = w

/-- A host word is put together from its `OP` and the operands below it. -/
theorem hostWord_eq {op operands : Nat} {w : Word} (hop : w.toNat / 2 ^ 28 = op) (low : w.toNat % 2 ^ 28 = operands) :
    hostWord op operands = w := by
  refine BitVec.eq_of_toNat_eq ?_
  have := w.isLt
  rw [hostWord_toNat] <;> omega

theorem wireWord_eq {bits : Nat} {w : Word} (h : w.toNat = bits) : wireWord bits = w :=
  BitVec.eq_of_toNat_eq (by rw [wireWord_toNat (h ▸ w.isLt), h])

/-- A row of the host table: its must-be-zero bits say that the operands are all there is below the `OP`. -/
theorem isWordOf_whenZero {op operands : Nat} {w : Word} {zeros : Bool} {i j : Instr} (h : whenZero zeros j = .ok i)
    (hop : w.toNat / 2 ^ 28 = op) (wf : j.wf = true) (format : j.format = .host32)
    (word : encode j = hostWord op operands) (low : zeros = true → w.toNat % 2 ^ 28 = operands) :
    IsWordOf .host32 w i := by
  obtain ⟨hzeros, rfl⟩ := (whenZero_eq_ok_iff ..).1 h
  exact ⟨wf, format, word.trans (hostWord_eq hop (low hzeros))⟩

/-- The two rows of CLEAR: the sign bit of `line` is what makes the instruction read well-formed. -/
theorem isWordOf_clear {w : Word} {i : Instr} (hop : w.toNat / 2 ^ 28 = 4) (h : Decode.clearRow w = .ok i) :
    IsWordOf .host32 w i := by
  have operand : (field 8 20 w == 0#20) = true → w.toNat % 2 ^ 28 = (field 0 8 w).toNat := fun zeros => by
    rw [field_beq_iff] at zeros
    rw [field_toNat]; omega
  rw [Decode.clearRow, ← msb_field] at h
  cases sign : (field 0 8 w).msb
  · rw [sign, if_neg Bool.false_ne_true] at h
    exact isWordOf_whenZero h hop (by rw [Instr.wf, sign]; rfl) rfl rfl operand
  · rw [sign, if_pos rfl] at h
    exact isWordOf_whenZero h hop sign rfl rfl operand

/-- Every row of the host table reads the word of its instruction. -/
theorem isWordOf_hostRow {op : Nat} {w : Word} {i : Instr} (hop : w.toNat / 2 ^ 28 = op) (lt : op < 8)
    (h : hostRow op w = .ok i) : IsWordOf .host32 w i := by
  match op with
  | 0 =>
    refine isWordOf_whenZero h hop rfl rfl rfl fun zeros => ?_
    simp only [Bool.and_eq_true, field_beq_iff] at zeros
    simp only [field_toNat]; omega
  | 1 =>
    refine isWordOf_whenZero h hop rfl rfl rfl fun zeros => ?_
    rw [field_beq_iff] at zeros
    simp only [field_toNat, bit_toNat]; omega
  | 2 =>
    refine isWordOf_whenZero h hop rfl rfl rfl fun zeros => ?_
    rw [field_beq_iff] at zeros
    simp only [field_toNat]; omega
  | 3 =>
    refine isWordOf_whenZero h hop rfl rfl rfl fun zeros => ?_
    rw [field_beq_iff] at zeros
    simp only [field_toNat]; omega
  | 4 => exact isWordOf_clear hop h
  | 5 =>
    refine isWordOf_whenZero h hop rfl rfl rfl fun zeros => ?_
    rw [field_beq_iff] at zeros
    simp only [bit_toNat]; omega
  | 6 =>
    refine isWordOf_whenZero h hop rfl rfl rfl fun zeros => ?_
    rw [field_beq_iff] at zeros
    simp only [bit_toNat]; omega
  | 7 =>
    refine isWordOf_whenZero h hop rfl rfl rfl fun zeros => ?_
    rw [field_beq_iff] at zeros
    omega

theorem isWordOf_host {w : Word} {i : Instr} (h : host w = .ok i) : IsWordOf .host32 w i := by
  rw [host_eq_hostRow] at h
  split at h
  · cases h
  · exact isWordOf_hostRow rfl (by omega) h

theorem isWordOf_tbyte {w : Word} {i : Instr} (narrow : w.toNat < 2 ^ 8) (h : tbyte w = .ok i) :
    IsWordOf .tbyte8 w i := by
  unfold tbyte at h
  split at h
  · cases h
  · next write =>
    obtain rfl := Decoded.ok.inj h
    rw [bit_eq, decide_eq_true_eq] at write
    refine ⟨rfl, rfl, wireWord_eq ?_⟩
    simp only [field_toNat, bit_toNat]; omega

/-- One row of a table that is tried in order. -/
theorem isWordOf_ite {c : Prop} [Decidable c] {f : Format} {w : Word} {i j : Instr} {rest : Decoded}
    (h : (if c then .ok j else rest) = .ok i) (row : c → IsWordOf f w j) (below : rest = .ok i → IsWordOf f w i) :
    IsWordOf f w i := by
  split at h
  · next hc => exact Decoded.ok.inj h ▸ row hc
  · exact below h

/-- A row whose word has no operand. -/
theorem isWordOf_fixed {f : Format} {w : Word} {i : Instr} {n b : Nat} (narrow : w.toNat < 2 ^ n)
    (row : field 0 n w = BitVec.ofNat n b) (hb : b < 2 ^ n) (wf : i.wf = true) (format : i.format = f)
    (word : encode i = wireWord b) : IsWordOf f w i := by
  rw [field_eq_iff, Nat.pow_zero, Nat.div_one, Nat.mod_eq_of_lt narrow, BitVec.toNat_ofNat, Nat.mod_eq_of_lt hb] at row
  exact ⟨wf, format, word.trans (wireWord_eq row)⟩

theorem isWordOf_startup {w : Word} {i : Instr} (narrow : w.toNat < 2 ^ 4) (h : startup w = .ok i) :
    IsWordOf .lcd4 w i := by
  refine isWordOf_ite h (fun wake => ?_) fun h => isWordOf_ite h (fun mode4 => ?_) nofun
  · exact isWordOf_fixed narrow wake (by decide) rfl rfl rfl
  · exact isWordOf_fixed narrow mode4 (by decide) rfl rfl rfl

theorem isWordOf_setAddress {w : Word} (narrow : w.toNat < 2 ^ 8) (high : field 7 1 w = 1#1) :
    IsWordOf .lcd8 w (.lcdSetAddress (field 0 7 w)) := by
  rw [field_eq_iff, BitVec.toNat_ofNat] at high
  refine ⟨rfl, rfl, wireWord_eq ?_⟩
  rw [field_toNat]; omega

theorem isWordOf_displayControl {w : Word} (narrow : w.toNat < 2 ^ 8) (high : field 3 5 w = 0x01#5) :
    IsWordOf .lcd8 w (.lcdDisplayControl (w.getLsbD 2) (w.getLsbD 1) (w.getLsbD 0)) := by
  rw [field_eq_iff, BitVec.toNat_ofNat] at high
  refine ⟨rfl, rfl, wireWord_eq ?_⟩
  simp only [bit_toNat]; omega

theorem isWordOf_commandByte {w : Word} {i : Instr} (narrow : w.toNat < 2 ^ 8) (h : commandByte w = .ok i) :
    IsWordOf .lcd8 w i := by
  refine isWordOf_ite h (isWordOf_setAddress narrow) fun h => ?_
  refine isWordOf_ite h (isWordOf_displayControl narrow) fun h => ?_
  refine isWordOf_ite h (fun functionSet => isWordOf_fixed narrow functionSet (by decide) rfl rfl rfl) fun h => ?_
  refine isWordOf_ite h (fun clear => isWordOf_fixed narrow clear (by decide) rfl rfl rfl) fun h => ?_
  refine isWordOf_ite h (fun entryMode => isWordOf_fixed narrow entryMode (by decide) rfl rfl rfl) fun h => ?_
  exact isWordOf_ite h (fun carrier => isWordOf_fixed narrow carrier (by decide) rfl rfl rfl) nofun

/-- A wire word has nothing above its format's width. -/
theorem narrow_of_decode {n : Nat} {w : Word} {read : Decoded} {i : Instr}
    (h : (if field n (32 - n) w = 0#(32 - n) then read else .bad .tooWide) = .ok i) (hn : n ≤ 32) :
    w.toNat < 2 ^ n ∧ read = .ok i := by
  split at h
  · next zeros =>
    refine ⟨?_, h⟩
    have lt : w.toNat / 2 ^ n < 2 ^ (32 - n) :=
      Nat.div_lt_of_lt_mul (by rw [← Nat.pow_add, Nat.add_sub_cancel' hn]; exact w.isLt)
    rw [field_eq_iff, Nat.mod_eq_of_lt lt, BitVec.toNat_ofNat, Nat.zero_mod] at zeros
    exact Nat.lt_of_div_eq_zero (Nat.two_pow_pos n) zeros
  · cases h

/-- Settles O2: format by format, the fields read are all the bits the word has. -/
theorem encodeOfDecodeIsTheWord : Obligations.EncodeOfDecodeIsTheWord := by
  intro f w i h
  cases f with
  | host32 => exact isWordOf_host h
  | tbyte8 =>
    obtain ⟨narrow, h⟩ := narrow_of_decode (n := 8) h (by decide)
    exact isWordOf_tbyte narrow h
  | lcd4 =>
    obtain ⟨narrow, h⟩ := narrow_of_decode (n := 4) h (by decide)
    exact isWordOf_startup narrow h
  | lcd8 =>
    obtain ⟨narrow, h⟩ := narrow_of_decode (n := 8) h (by decide)
    exact isWordOf_commandByte narrow h
  | lcd8data =>
    obtain ⟨narrow, h⟩ := narrow_of_decode (n := 8) h (by decide)
    obtain rfl := Decoded.ok.inj h
    refine ⟨rfl, rfl, wireWord_eq ?_⟩
    rw [field_toNat]; omega

/-- Settles O3: each word by evaluation of the decoder. -/
theorem specWordsDecodeToTheirCommands : Obligations.SpecWordsDecodeToTheirCommands := by
  unfold Obligations.SpecWordsDecodeToTheirCommands
  decide

/-! ## A word placed for the next step (log 9, 16) -/

/-- The format of a host command's word in the table, which is the only one of 32 bits. -/
theorem tableFormat_encode {i : Instr} (wf : i.wf = true) (host : i.format = .host32) :
    tableFormat 32 (encode i).toNat = some .host32 := by
  have decodes : decode .host32 (encode i) = .ok i := host ▸ decodeOfEncodeIsTheInstruction i wf
  rw [tableFormat, if_pos (encode i).isLt, BitVec.ofNat_toNat, BitVec.setWidth_eq, tableFormats, if_pos rfl, firstFormat,
    decodes]

/-- Settles O5: the table reads the word as the command (O1), and the step takes the word placed at the head of the
queue. -/
theorem placedCommandIsTheNextToRun : Obligations.PlacedCommandIsTheNextToRun := by
  intro i s wf host
  have decodes : decode .host32 (encode i) = .ok i := host ▸ decodeOfEncodeIsTheInstruction i wf
  have format := tableFormat_encode wf host
  constructor
  · simp only [decodeTableWord, format, BitVec.ofNat_toNat, BitVec.setWidth_eq, decodes, Decoded.instr?]
  · simp only [State.withFetchWord, format, BitVec.ofNat_toNat, BitVec.setWidth_eq, placeWord, step, fetch, decodes, latch]

end Sys2Proof.Proofs.RoundTrip

/-! # Operands and the response word -/

namespace Sys2Proof.Proofs.Operands

open Sys2Proof.Machine

/-! ## The target address (42 R85, R86) -/

theorem clampCol_cast (width : Nat) {x : Int} (nonneg : 0 ≤ x) : (clampCol width x : Int) = min x width := by
  unfold clampCol
  split <;> omega

theorem clampCol_le (width : Nat) (x : Int) : clampCol width x ≤ width := by
  unfold clampCol
  split <;> omega

/-- Every column from the width on is clamped to the width itself. -/
theorem clampCol_of_le {width : Nat} {x : Int} (le : width ≤ x) : clampCol width x = width := by
  unfold clampCol
  split <;> omega

/-- A row base is the base of one of the two lines of the controller, or that base moved on by the width. -/
theorem rowBase_bounds (width : Nat) (y : Int) : 0x80 ≤ rowBase width y ∧ rowBase width y ≤ 0xC0 + width := by
  unfold rowBase
  repeat' split
  all_goals omega

/-- Settles O7: the clamp is the minimum with the width. -/
theorem columnIsClampedToTheWidth : Obligations.ColumnIsClampedToTheWidth := by
  refine fun width x y nonneg => ⟨?_, fun le => ?_⟩
  · rw [targetSum, Nat.cast_add, clampCol_cast width nonneg]
  · rw [targetSum, targetSum, clampCol_of_le le, clampCol_of_le le_rfl]

/-- Settles O8: the highest base and the clamped column add up to 0xC0 + 31 + 31. -/
theorem setAddressSumFitsUpToWidth31 : Obligations.SetAddressSumFitsUpToWidth31 := by
  intro width x y narrow
  obtain ⟨low, high⟩ := rowBase_bounds width y
  have column := clampCol_le width x
  rw [targetSum]
  omega

/-! ## The response word (30 R55) -/

/-- Two fields side by side, as a number. -/
theorem append_toNat {m n : Nat} (x : BitVec m) (y : BitVec n) : (x ++ y).toNat = x.toNat * 2 ^ n + y.toNat := by
  rw [BitVec.toNat_append, ← Nat.shiftLeft_add_eq_or_of_lt y.isLt, Nat.shiftLeft_eq]

theorem resp_word_toNat (q : Resp) : q.word.toNat = q.reason.toNat * 32 + q.err.toNat * 4 + q.result.toNat := by
  rw [Resp.word, append_toNat, append_toNat]
  omega

/-- Settles O10: the layout for every response, and the spec's words by evaluation. -/
theorem responseWordHasItsFields : Obligations.ResponseWordHasItsFields :=
  ⟨resp_word_toNat, by decide⟩

end Sys2Proof.Proofs.Operands

/-! # Frames: where each TransportByte of a frame stands and what it carries -/

namespace Sys2Proof.Proofs.FrameBytes

open Sys2Proof.Laws Sys2Proof.Machine Sys2Proof.Safety Sys2Proof.Proofs.BitPacker Sys2Proof.Proofs.FrameTransport

/-! ## The k-th TransportByte -/

/-- The `k`-th TransportByte of a full frame, which carries a nibble of payload byte `b` (30 R46). -/
def slotAt (c : ControlBits) (rs bl : Bool) (k : Nat) (b : Byte) : Slot where
  byte := k / 4
  nib := if k % 4 < 2 then .hi else .lo
  en := decide (k % 2 = 0)
  val := pack c rs bl (if k % 4 < 2 then hiNibble b else loNibble b).toNat (decide (k % 2 = 0))

/-- The four TransportBytes of the payload byte at index `i`. -/
theorem fullSlots_cons (c : ControlBits) (rs bl : Bool) (i : Nat) (b : Byte) (bs : List Byte) :
    fullSlots c rs bl i (b :: bs) =
      slotAt c rs bl (4 * i) b :: slotAt c rs bl (4 * i + 1) b :: slotAt c rs bl (4 * i + 2) b
        :: slotAt c rs bl (4 * i + 3) b :: fullSlots c rs bl (i + 1) bs := by
  simp [fullSlots, nibbleSlots, slotAt, Nat.mul_add_div, show 4 * i % 2 = 0 by omega,
    show (4 * i + 1) % 2 = 1 by omega, show (4 * i + 2) % 2 = 0 by omega, show (4 * i + 3) % 2 = 1 by omega]

theorem fullSlots_getElem? (c : ControlBits) (rs bl : Bool) (i : Nat) (p : List Byte) (k : Nat) :
    (fullSlots c rs bl i p)[k]? = p[k / 4]?.map (slotAt c rs bl (4 * i + k)) := by
  induction p generalizing i k with
  | nil => rfl
  | cons b bs ih =>
    rw [fullSlots_cons]
    match k with
    | 0 => rfl
    | 1 => rfl
    | 2 => rfl
    | 3 => rfl
    | k + 4 =>
      have later : (k + 4) / 4 = k / 4 + 1 := by omega
      have place : 4 * i + (k + 4) = 4 * (i + 1) + k := by omega
      rw [later, place]
      exact ih (i + 1) k

/-- A full frame, by the mode's register-select bit. -/
theorem frameSlots_full (c : ControlBits) {mode : Mode} (full : mode ≠ .startup) (bl : Bool) (p : List Byte) :
    frameSlots c mode bl p = fullSlots c mode.rs bl 0 p := by
  cases mode with
  | cmd => rfl
  | data => rfl
  | startup => exact absurd rfl full

theorem frameSlots_getElem? (c : ControlBits) {mode : Mode} (full : mode ≠ .startup) (bl : Bool) (p : List Byte)
    (k : Nat) : (frameSlots c mode bl p)[k]? = p[k / 4]?.map (slotAt c mode.rs bl k) := by
  rw [frameSlots_full c full, fullSlots_getElem?, Nat.mul_zero, Nat.zero_add]

/-- Settles O17: the position is part of the `k`-th slot. -/
theorem framePositionsAdvanceInOrder : Obligations.FramePositionsAdvanceInOrder := by
  intro c mode bl payload k sl full at_k
  rw [frameSlots_getElem? c full, Option.map_eq_some_iff] at at_k
  obtain ⟨b, -, rfl⟩ := at_k
  exact ⟨rfl, rfl, rfl⟩

/-! ## What a frame's bytes carry -/

/-- Every byte of a frame is packed with the mode's register-select bit, the backlight given, and the strobe that its
place calls for. -/
theorem expand_packed {c : ControlBits} {mode : Mode} {bl : Bool} {p : List Byte} {k : Nat} {b : Byte}
    (at_k : (expand c mode bl p)[k]? = some b) : ∃ n, b = pack c mode.rs bl n (decide (k % 2 = 0)) := by
  by_cases startup : mode = .startup
  · subst startup
    match k with
    | 0 => exact ⟨_, (Option.some.inj at_k).symm⟩
    | 1 => exact ⟨_, (Option.some.inj at_k).symm⟩
    | k + 2 => cases at_k
  · rw [expand, List.getElem?_map, frameSlots_getElem? c startup] at at_k
    cases hb : p[k / 4]? with
    | none => rw [hb] at at_k; cases at_k
    | some byte => rw [hb] at at_k; exact ⟨_, (Option.some.inj at_k).symm⟩

theorem mode_rs (mode : Mode) : mode.rs = decide (mode = .data) := by cases mode <;> rfl

/-- Settles O16: the control bits of a packed byte, none of which but the strobe varies along the frame. -/
theorem frameChangesOnlyStrobeAndNibble : Obligations.FrameChangesOnlyStrobeAndNibble := by
  intro c mode bl payload k b distinct at_k
  obtain ⟨n, rfl⟩ := expand_packed at_k
  obtain ⟨bl_en, bl_rw, bl_rs, en_rw, en_rs, rw_rs⟩ := (distinct_iff c).1 distinct
  refine ⟨?_, ?_, ?_, pack_getLsbD_en distinct ..⟩
  · simp [pack_getLsbD_num, mode_rs, rw_rs.symm, en_rs.symm, bl_rs.symm]
  · simp [pack_getLsbD_num, bl_rs, bl_rw, bl_en]
  · simp [pack_getLsbD_num, rw_rs, en_rw.symm, bl_rw.symm, Config.rwWrite]

theorem and_low (b : Byte) : b &&& 0x0F = (b.extractLsb' 0 4).setWidth 8 := by
  revert b; decide

/-- The low four bits of a packed byte are its nibble. -/
theorem pack_and_low (c : ControlBits) (rs bl : Bool) (n : Nibble) (en : Bool) :
    pack c rs bl n.toNat en &&& 0x0F = n.setWidth 8 := by
  rw [and_low, pack_low, BitVec.ofNat_toNat, BitVec.setWidth_eq]

/-- A byte is put together from its nibbles. -/
theorem nibbles_joined (b : Byte) : (hiNibble b).setWidth 8 <<< 4 ||| (loNibble b).setWidth 8 = b := by
  revert b; decide

/-- Settles O15: the length by mode; bytes `4 i` and `4 i + 2` of a full frame carry the two nibbles of payload byte `i`. -/
theorem frameHasItsLengthAndCarriesItsPayload : Obligations.FrameHasItsLengthAndCarriesItsPayload := by
  refine fun c mode bl payload => ⟨?_, fun full i hi => ?_⟩
  · rw [expand, List.length_map, frameSlots_length]
  · have byte : ∀ k, k / 4 = i → (expand c mode bl payload).getD k 0 = (slotAt c mode.rs bl k payload[i]).val := by
      intro k hk
      rw [List.getD_eq_getElem?_getD, expand, List.getElem?_map, frameSlots_getElem? c full, hk,
        List.getElem?_eq_getElem hi]
      rfl
    have high : (4 * i) % 4 < 2 := by omega
    have low : ¬ (4 * i + 2) % 4 < 2 := by omega
    rw [byte (4 * i) (by omega), byte (4 * i + 2) (by omega)]
    simp only [slotAt, if_pos high, if_neg low]
    rw [pack_and_low, pack_and_low, nibbles_joined, List.getElem?_eq_getElem hi]

/-! ## The startup frame (41 R71, R76) -/

theorem frameBytes_startup (c : ControlBits) (bl : Bool) (b : Byte) (rest : List Byte) :
    frameBytes c .startup bl (b :: rest)
      = [pack c false bl (b.toNat / 16) true, pack c false bl (b.toNat / 16) false] := rfl

/-- Settles O20: the events and the answer of `send` for a frame of two TransportBytes. -/
theorem startupFrameIsOneNibble : Obligations.StartupFrameIsOneNibble := by
  intro bl b rest settle s
  have trace := send_trace .startup bl (b :: rest) settle s
  have answer := send_answer .startup bl (b :: rest) settle s
  have stage := send_stage .startup bl (b :: rest) settle s fun _ => by simp [frameBytes_startup]
  have staged := stageFrame_holds (frameSlots s.straps.bits .startup bl (b :: rest)) s
  rw [frameSlots_val, frameBytes_startup] at staged
  refine ⟨fun raw => ⟨?_, ?_⟩, fun block => ⟨?_, ?_, ?_, staged⟩⟩
  · simpa [frameEvents, byteEvents, settleEvents, raw, frameBytes_startup] using trace
  · simp [answer, frameGood, raw, writesGood, List.range_succ]
  · simpa [frameEvents, byteEvents, settleEvents, block, frameBytes_startup, chunkEvents] using trace
  · simp [answer, frameGood, block, codesGood, chunkCount]
  · simp only [StageAfter, block] at stage
    exact BitVec.eq_of_toNat_eq stage

/-! ## The two senders (95_test_vectors.md V33) -/

/-- Whatever the sender, the events of handing bytes to the channel carry those bytes. -/
theorem byteEvents_bytes (st : Straps) (bytes : List Byte) : (byteEvents st bytes).flatMap Event.bytes = bytes := by
  unfold byteEvents chunkEvents
  split
  · simp [List.flatMap_map, Event.bytes]
  · split <;> simp [Event.bytes]

/-- The events of a frame carry the frame's bytes: a delay carries none. -/
theorem frameEvents_bytes (st : Straps) (mode : Mode) (bl : Bool) (p : List Byte) (n : Nat) :
    (frameEvents st mode bl p n).flatMap Event.bytes = frameBytes st.bits mode bl p := by
  have delays : (settleEvents st n).flatMap Event.bytes = [] := by
    unfold settleEvents; split <;> rfl
  rw [frameEvents, List.flatMap_append, byteEvents_bytes, delays, List.append_nil]

/-- Settles O21: each engine's events carry the bytes of the frame. -/
theorem rawAndBlockSendTheSameBytes : Obligations.RawAndBlockSendTheSameBytes := by
  intro mode bl payload settle r b _ _ bits
  refine ⟨_, _, send_trace mode bl payload settle r, send_trace mode bl payload settle b, ?_, frameEvents_bytes ..⟩
  rw [frameEvents_bytes, frameEvents_bytes, bits]

end Sys2Proof.Proofs.FrameBytes

/-! # Wire rows: one frame, or one TransportByte, run by itself (log 11) -/

namespace Sys2Proof.Proofs.WireRows

open Sys2Proof.Laws Sys2Proof.Machine Sys2Proof.Safety Sys2Proof.Proofs.ProtocolEngine

/-! ## The two kinds of instruction -/

/-- Told from an instruction's format by evaluation. -/
theorem not_isHost {i : Instr} (h : decide (i.format = .host32) = false) : ¬ IsHost i :=
  of_decide_eq_false (p := i.format = .host32) h

/-- The host commands, as cases of a proof about one. -/
theorem hostCases {motive : (i : Instr) → IsHost i → Prop}
    (openDev : ∀ path address, motive (.openDev path address) rfl)
    (init : ∀ on height width, motive (.init on height width) rfl)
    (goto : ∀ y x, motive (.goto y x) rfl)
    (print : ∀ len y x, motive (.print len y x) rfl)
    (clearAll : ∀ line, motive (.clearAll line) rfl)
    (clearRow : ∀ line, motive (.clearRow line) rfl)
    (backlight : ∀ on, motive (.backlight on) rfl)
    (control : ∀ bl d c k, motive (.control bl d c k) rfl)
    (close : motive .close rfl) (i : Instr) (host : IsHost i) : motive i host := by
  cases i with
  | openDev path address => exact openDev path address
  | init on height width => exact init on height width
  | goto y x => exact goto y x
  | print len y x => exact print len y x
  | clearAll line => exact clearAll line
  | clearRow line => exact clearRow line
  | backlight on => exact backlight on
  | control bl d c k => exact control bl d c k
  | close => exact close
  | tbyte rs en bl n => exact absurd host (not_isHost rfl)
  | lcdWake => exact absurd host (not_isHost rfl)
  | lcdMode4 => exact absurd host (not_isHost rfl)
  | lcdFunctionSet => exact absurd host (not_isHost rfl)
  | lcdClearDisplay => exact absurd host (not_isHost rfl)
  | lcdEntryMode => exact absurd host (not_isHost rfl)
  | lcdDisplayControl d c k => exact absurd host (not_isHost rfl)
  | lcdBacklightCarrier => exact absurd host (not_isHost rfl)
  | lcdSetAddress offset => exact absurd host (not_isHost rfl)
  | lcdData code => exact absurd host (not_isHost rfl)

/-- The wire rows, as cases of a proof about one. -/
theorem wireCases {motive : (i : Instr) → ¬ IsHost i → Prop}
    (tbyte : ∀ rs en bl n, motive (.tbyte rs en bl n) (not_isHost rfl))
    (lcdWake : motive .lcdWake (not_isHost rfl))
    (lcdMode4 : motive .lcdMode4 (not_isHost rfl))
    (lcdFunctionSet : motive .lcdFunctionSet (not_isHost rfl))
    (lcdClearDisplay : motive .lcdClearDisplay (not_isHost rfl))
    (lcdEntryMode : motive .lcdEntryMode (not_isHost rfl))
    (lcdDisplayControl : ∀ d c k, motive (.lcdDisplayControl d c k) (not_isHost rfl))
    (lcdBacklightCarrier : motive .lcdBacklightCarrier (not_isHost rfl))
    (lcdSetAddress : ∀ offset, motive (.lcdSetAddress offset) (not_isHost rfl))
    (lcdData : ∀ code, motive (.lcdData code) (not_isHost rfl)) (i : Instr) (wire : ¬ IsHost i) : motive i wire := by
  cases i with
  | tbyte rs en bl n => exact tbyte rs en bl n
  | lcdWake => exact lcdWake
  | lcdMode4 => exact lcdMode4
  | lcdFunctionSet => exact lcdFunctionSet
  | lcdClearDisplay => exact lcdClearDisplay
  | lcdEntryMode => exact lcdEntryMode
  | lcdDisplayControl d c k => exact lcdDisplayControl d c k
  | lcdBacklightCarrier => exact lcdBacklightCarrier
  | lcdSetAddress offset => exact lcdSetAddress offset
  | lcdData code => exact lcdData code
  | openDev path address => exact absurd rfl wire
  | init on height width => exact absurd rfl wire
  | goto y x => exact absurd rfl wire
  | print len y x => exact absurd rfl wire
  | clearAll line => exact absurd rfl wire
  | clearRow line => exact absurd rfl wire
  | backlight on => exact absurd rfl wire
  | control bl d c k => exact absurd rfl wire
  | close => exact absurd rfl wire

/-! ## Where a frame leaves the sequencer (10_state R16) -/

/-- The next send does not depend on the place inside the frame. -/
theorem nextSend_place (q : Seq) (byte : Nat) (nib : Nib) (en : Bool) : (q.place byte nib en).nextSend = q.nextSend := by
  cases q <;> rfl

theorem nextSend_foldl_place (sls : List Slot) (q : Seq) :
    (sls.foldl (fun q sl => q.place sl.byte sl.nib sl.en) q).nextSend = q.nextSend := by
  induction sls generalizing q with
  | nil => rfl
  | cons sl rest ih => rw [List.foldl_cons, ih, nextSend_place]

theorem chanWrite_seq (b : Byte) (s : State) : (chanWrite b s).2.seq = s.seq := nextBool_seq _

theorem nextSend_rawWrites (sls : List Slot) (s : State) : (rawWrites sls s).2.seq.nextSend = s.seq.nextSend := by
  induction sls generalizing s with
  | nil => rfl
  | cons sl rest ih =>
    calc (rawWrites rest (chanWrite sl.val (moveTo sl s)).2).2.seq.nextSend
        = (moveTo sl s).seq.nextSend := by rw [ih, chanWrite_seq]
      _ = s.seq.nextSend := nextSend_place ..

theorem blockWrites_seq (bs : List Byte) (s : State) : (blockWrites bs s).2.seq = s.seq := by
  simp only [blockWrites]
  split <;> simp [chanBlockWrite]

theorem rawDelay_seq (n : Nat) (s : State) : (rawDelay n s).seq = s.seq := by
  unfold rawDelay
  split <;> rfl

/-- After a frame the sequencer stands at the operation's next send. -/
theorem send_seq (mode : Mode) (bl : Bool) (p : List Byte) (n : Nat) (s : State) :
    (send mode bl p n s).2.seq = s.seq.nextSend := by
  rcases h : s.straps.transport
  · simp only [send, h, rawSend, rawTransmit, frameDone_fields, rawDelay_seq, nextSend_rawWrites]
  · simp only [send, h, blockSend, blockTransmit_eq, blockDelay, frameDone_fields, delay_fields, dropStage_fields,
      blockWrites_seq, stageFrame_fields, nextSend_foldl_place]

/-- Bytes handed to the channel leave no value in STAGE, if there was none (10_state R20). -/
theorem transmit_empties (sls : List Slot) {s : State} (empty : s.stage = ⟨[]⟩) : (transmit sls s).2.stage = ⟨[]⟩ := by
  rcases h : s.straps.transport
  · simp only [transmit, h, rawTransmit, rawWrites_stage, empty]
  · simp only [transmit, h, blockTransmit_eq, dropStage_fields]

theorem send_empties (mode : Mode) (bl : Bool) (p : List Byte) (n : Nat) {s : State} (empty : s.stage = ⟨[]⟩) :
    (send mode bl p n s).2.stage = ⟨[]⟩ := by
  rcases h : s.straps.transport
  · have delay_keeps_stage : ∀ u : State, (rawDelay n u).stage = u.stage := fun u => by
      unfold rawDelay; split <;> rfl
    simp only [send, h, rawSend, rawTransmit, frameDone_fields, delay_keeps_stage, rawWrites_stage, empty]
  · simp only [send, h, blockSend, blockTransmit_eq, blockDelay, frameDone_fields, delay_fields, dropStage_fields]

/-! ## A row that sends one frame -/

/-- What a frame of one payload byte does, and its frame. -/
structure RowSent (mode : Mode) (bl : Bool) (b : Byte) (settle : Nat) (s t : State) : Prop where
  trace : t.trace = s.trace ++ frameEvents s.straps mode bl [b] settle
  seq : t.seq = s.seq.nextSend
  keeps : OnlyTransport s t
  stage : StageAfter (if mode = .startup then 2 else 4) s t
  empties : s.stage = ⟨[]⟩ → t.stage = ⟨[]⟩

theorem send_rowSent (mode : Mode) (bl : Bool) (b : Byte) (n : Nat) (s : State) :
    RowSent mode bl b n s (send mode bl [b] n s).2 :=
  ⟨send_trace .., send_seq .., send_keeps .., send_stage_one .., send_empties mode bl [b] n⟩

theorem nextFree_keeps (s : State) : OnlyTransport s (nextFree s) := by constructor <;> rfl

/-- Taking a free value before the frame is not seen in it. -/
theorem RowSent.of_nextFree {mode : Mode} {bl : Bool} {b : Byte} {n : Nat} {s t : State}
    (h : RowSent mode bl b n (nextFree s) t) : RowSent mode bl b n s t :=
  ⟨h.trace, h.seq, (nextFree_keeps s).trans h.keeps, h.stage, h.empties⟩

/-- With the sequencer at no step of init that sends this byte, the frame has the figures given. -/
theorem wireFrame_of_none {mode : Mode} {b : Byte} {s : State} (h : initStepFor mode b s = none) (bl : Bool) (n : Nat) :
    wireFrame mode b bl n s = (send mode bl [b] n s).2 := by
  simp only [wireFrame, h]

/-- With the sequencer at a step of init that sends this byte, the frame has the step's figures. -/
theorem wireFrame_of_some {mode : Mode} {b : Byte} {s : State} {st : InitStep} (h : initStepFor mode b s = some st)
    (bl : Bool) (n : Nat) :
    wireFrame mode b bl n s = (send mode (st.bl (s.cmd.getLsbD 16)) [b] st.settle s).2 := by
  simp only [wireFrame, h]

theorem initStepFor_idle {s : State} (idle : s.seq = .idle) (mode : Mode) (b : Byte) :
    initStepFor mode b s = none := by
  simp [initStepFor, initStepNow, idle]

/-- The step found is one of the table's, and it sends this byte in this mode. -/
theorem initStepFor_some {mode : Mode} {b : Byte} {s : State} {st : InitStep} (h : initStepFor mode b s = some st) :
    st ∈ initTable ∧ st.mode = mode ∧ st.byte = b := by
  unfold initStepFor at h
  split at h
  · cases h
  · next st' now =>
    split at h
    · next sends =>
      obtain rfl := Option.some.inj h
      refine ⟨?_, sends⟩
      unfold initStepNow at now
      split at now
      · exact List.mem_of_find?_eq_some now
      · cases now
    · cases h

/-- The sequencer at a step of the table finds that step. -/
theorem initStepFor_running {s : State} {st : InitStep} (mem : st ∈ initTable) {byte : Nat} {nib : Nib} {en : Bool}
    (running : s.seq = .running .init st.k byte nib en) : initStepFor st.mode st.byte s = some st := by
  have found : ∀ st ∈ initTable, (initTable.find? fun st' => st'.k == st.k) = some st := by decide
  simp [initStepFor, initStepNow, running, found st mem]

/-- With the sequencer idle a row sends its byte with the figures of its own rule. -/
theorem wireFrame_idle {s : State} (idle : s.seq = .idle) (mode : Mode) (b : Byte) (bl : Bool) (n : Nat) :
    RowSent mode bl b n s (wireFrame mode b bl n s) := by
  rw [wireFrame_of_none (initStepFor_idle idle mode b)]
  exact send_rowSent mode bl b n s

theorem RowSent.seq_idle {mode : Mode} {bl : Bool} {b : Byte} {n : Nat} {s t : State} (h : RowSent mode bl b n s t)
    (idle : s.seq = .idle) : t.seq = .idle := by
  rw [h.seq, idle]; rfl

/-! ## The rows (30 R44, R48, R51) -/

/-- The slot of a TransportByte that is no part of a frame. -/
def loneSlot (rs en bl : Bool) (n : BitVec 4) (s : State) : Slot := ⟨0, .hi, en, pack s.straps.bits rs bl n.toNat en⟩

/-- The state after TBYTE: the sequencer stays where it was. -/
def tbyteSent (rs en bl : Bool) (n : BitVec 4) (s : State) : State :=
  { (transmit [loneSlot rs en bl n s] s).2 with seq := s.seq }

/-- What each wire row does with a session open. The host commands are no wire rows. -/
def wireRun : Instr → State → State
  | .tbyte rs en bl n => tbyteSent rs en bl n
  | .lcdWake => fun s => wireFrame .startup 0x30 false (wakeSettle (Config.freeWakeAttempt s.freeIdx)) (nextFree s)
  | .lcdMode4 => wireFrame .startup 0x20 false 4100
  | .lcdFunctionSet => wireFrame .cmd 0x28 false 100
  | .lcdClearDisplay => fun s => wireFrame .cmd 0x01 s.bl 2000 s
  | .lcdEntryMode => wireFrame .cmd 0x06 false 100
  | .lcdDisplayControl d c k => fun s => wireFrame .cmd (controlByte d c k) s.bl 0 s
  | .lcdBacklightCarrier => fun s => wireFrame .cmd 0x00 s.bl 0 s
  | .lcdSetAddress offset => fun s => wireFrame .cmd (setAddressByte offset) s.bl 0 s
  | .lcdData code => fun s => wireFrame .data code s.bl 0 s
  | .openDev _ _ | .init _ _ _ | .goto _ _ | .print _ _ _ | .clearAll _ | .clearRow _ | .backlight _ | .control _ _ _ _
  | .close => id

/-- Every wire row is its operation, guarded by the session. -/
theorem exec_eq_wireRun {i : Instr} (wire : ¬ IsHost i) (s : State) : exec i s = withSession s (wireRun i) := by
  cases i, wire using wireCases with
  | tbyte rs en bl n => rfl
  | lcdWake => rfl
  | lcdMode4 => rfl
  | lcdFunctionSet => rfl
  | lcdClearDisplay => rfl
  | lcdEntryMode => rfl
  | lcdDisplayControl d c k => rfl
  | lcdBacklightCarrier => rfl
  | lcdSetAddress offset => rfl
  | lcdData code => rfl

theorem exec_wire_opened {i : Instr} (wire : ¬ IsHost i) {s : State} (session : s.session = .opened) :
    exec i s = .next (wireRun i s) := by
  rw [exec_eq_wireRun wire, withSession_opened session]

/-- Settles O40: the guard refuses. -/
theorem wireRowsNeedAnOpenSession : Obligations.WireRowsNeedAnOpenSession := by
  intro i s wire closed
  rw [exec_eq_wireRun wire, withSession_closed closed]

/-! ## Rows outside init -/

/-- Settles O36: with the sequencer idle the settle figure is the free attempt's. -/
theorem wakeRowSendsTheWakeUpNibble : Obligations.WakeRowSendsTheWakeUpNibble := by
  intro s session idle
  have figure : ∀ attempt, wakeSettle attempt ∈ [15000, 4100, 100] := by decide
  have sent := (wireFrame_idle (s := nextFree s) idle .startup 0x30 false
    (wakeSettle (Config.freeWakeAttempt s.freeIdx))).of_nextFree
  exact ⟨_, _, figure _, exec_wire_opened (not_isHost rfl) session, sent.trace, sent.seq_idle idle,
    keepsAllButFrame_of_onlyTransport sent.keeps, sent.stage⟩

theorem setAddressByte_eq_ofNat (offset : BitVec 7) : setAddressByte offset = BitVec.ofNat 8 (0x80 + offset.toNat) := by
  revert offset; decide

/-- The rows of O38 with the mode, byte and settle figure of each. -/
theorem otherRow_run {row : Instr} {mode : Mode} {b : Byte} {settle : Nat}
    {d c k : Bool} {offset : BitVec 7} {code : BitVec 8}
    (mem : (row, mode, b, settle) ∈ [(Instr.lcdClearDisplay, Mode.cmd, (0x01 : Byte), 2000),
      (.lcdDisplayControl d c k, .cmd, BitVec.ofNat 8 (0x08 + d.toNat * 4 + c.toNat * 2 + k.toNat), 0),
      (.lcdBacklightCarrier, .cmd, 0x00, 0), (.lcdSetAddress offset, .cmd, BitVec.ofNat 8 (0x80 + offset.toNat), 0),
      (.lcdData code, .data, code, 0)]) (s : State) :
    ¬ IsHost row ∧ mode ≠ .startup ∧ wireRun row s = wireFrame mode b s.bl settle s := by
  simp only [List.mem_cons, Prod.mk.injEq, List.not_mem_nil, or_false] at mem
  rw [← controlByte_eq_ofNat, ← setAddressByte_eq_ofNat] at mem
  obtain ⟨rfl, rfl, rfl, rfl⟩ | ⟨rfl, rfl, rfl, rfl⟩ | ⟨rfl, rfl, rfl, rfl⟩ | ⟨rfl, rfl, rfl, rfl⟩ |
    ⟨rfl, rfl, rfl, rfl⟩ := mem <;> exact ⟨not_isHost rfl, nofun, rfl⟩

/-- Settles O38: with the sequencer idle each row sends its byte with the backlight that stands. -/
theorem otherRowsSendTheirByteOutsideInit : Obligations.OtherRowsSendTheirByteOutsideInit := by
  intro s row mode b settle d c k offset code session idle mem
  obtain ⟨wire, full, run⟩ := otherRow_run mem s
  have sent := wireFrame_idle idle mode b s.bl settle
  have stage := sent.stage
  rw [if_neg full] at stage
  exact ⟨_, run ▸ exec_wire_opened wire session, sent.trace, sent.seq_idle idle,
    keepsAllButFrame_of_onlyTransport sent.keeps, stage⟩

/-- A byte that only steps before the last send, all with one settle figure, is sent with that figure and the backlight
off wherever the sequencer stands. -/
theorem wireFrame_own_step {mode : Mode} {b : Byte} {n : Nat}
    (own : ∀ st ∈ initTable, st.mode = mode → st.byte = b → st.k ≠ 9 ∧ st.settle = n) (s : State) :
    RowSent mode false b n s (wireFrame mode b false n s) := by
  cases h : initStepFor mode b s with
  | none => rw [wireFrame_of_none h]; exact send_rowSent mode false b n s
  | some st =>
    obtain ⟨mem, hmode, hbyte⟩ := initStepFor_some h
    obtain ⟨before_last, rfl⟩ := own st mem hmode hbyte
    have off : st.bl (s.cmd.getLsbD 16) = false := by simp [InitStep.bl, before_last]
    rw [wireFrame_of_some h, off]
    exact send_rowSent mode false b st.settle s

/-- Settles O37: each of the three bytes is sent by one step of init alone. -/
theorem initOnlyRowsSendTheirStep : Obligations.InitOnlyRowsSendTheirStep := by
  intro s row mode b settle session mem
  suffices h : ∃ t, exec row s = .next t ∧ RowSent mode false b settle s t by
    obtain ⟨t, runs, sent⟩ := h
    exact ⟨t, runs, sent.trace, sent.seq, keepsAllButFrame_of_onlyTransport sent.keeps, sent.stage⟩
  simp only [List.mem_cons, Prod.mk.injEq, List.not_mem_nil, or_false] at mem
  obtain ⟨rfl, rfl, rfl, rfl⟩ | ⟨rfl, rfl, rfl, rfl⟩ | ⟨rfl, rfl, rfl, rfl⟩ := mem
  · exact ⟨_, exec_wire_opened (not_isHost rfl) session, wireFrame_own_step (by decide) s⟩
  · exact ⟨_, exec_wire_opened (not_isHost rfl) session, wireFrame_own_step (by decide) s⟩
  · exact ⟨_, exec_wire_opened (not_isHost rfl) session, wireFrame_own_step (by decide) s⟩

/-! ## Rows inside init -/

theorem rowSent_of_step {mode : Mode} {b : Byte} {s : State} {st : InitStep} (h : initStepFor mode b s = some st)
    (bl : Bool) (n : Nat) :
    RowSent mode (st.bl (s.cmd.getLsbD 16)) b st.settle s (wireFrame mode b bl n s) := by
  rw [wireFrame_of_some h]
  exact send_rowSent mode _ b st.settle s

/-- A row that the step the sequencer stands at sends makes the step's frame. -/
theorem exec_initRow {row : Instr} {st : InitStep} (mem : (row, st) ∈ initRows.zip initTable) {s : State}
    (session : s.session = .opened) {byte : Nat} {nib : Nib} {en : Bool}
    (running : s.seq = .running .init st.k byte nib en) :
    ∃ t, exec row s = .next t ∧ RowSent st.mode (st.bl (s.cmd.getLsbD 16)) st.byte st.settle s t := by
  have now := initStepFor_running (List.of_mem_zip mem).2 running
  have wake : ∀ {st' : InitStep}, initStepFor .startup 0x30 s = some st' →
      ∃ t, exec .lcdWake s = .next t ∧ RowSent .startup (st'.bl (s.cmd.getLsbD 16)) 0x30 st'.settle s t := fun now =>
    ⟨_, exec_wire_opened (not_isHost rfl) session, (rowSent_of_step (s := nextFree s) now _ _).of_nextFree⟩
  simp only [initRows, initTable, List.zip_cons_cons, List.zip_nil_right, List.mem_cons, Prod.mk.injEq, List.not_mem_nil,
    or_false] at mem
  obtain ⟨rfl, rfl⟩ | ⟨rfl, rfl⟩ | ⟨rfl, rfl⟩ | ⟨rfl, rfl⟩ | ⟨rfl, rfl⟩ | ⟨rfl, rfl⟩ | ⟨rfl, rfl⟩ | ⟨rfl, rfl⟩ |
    ⟨rfl, rfl⟩ := mem
  · exact wake now
  · exact wake now
  · exact wake now
  all_goals exact ⟨_, exec_wire_opened (not_isHost rfl) session, rowSent_of_step now _ _⟩

theorem initStep_k_le {st : InitStep} (mem : st ∈ initTable) : st.k ≤ 9 := by
  have all : ∀ st ∈ initTable, st.k ≤ 9 := by decide
  exact all st mem

/-- From a step of init the sequencer goes to the next one, and from the last to idle. -/
theorem nextSend_init {k : Nat} (le : k ≤ 9) (byte : Nat) (nib : Nib) (en : Bool) :
    (Seq.running .init k byte nib en).nextSend = if k = 9 then .idle else .running .init (k + 1) 0 .hi true := by
  by_cases last : k = 9
  · subst last; rfl
  · rw [if_neg last]
    exact if_pos (show k < 9 by omega)

/-- The init rows of O39 are the rows of `initRows`, each with the line of the table it stands beside. -/
theorem mem_initRows {k : Nat} {row : Instr} {mode : Mode} {b : Byte} {settle : Nat}
    (mem : (k, row, mode, b, settle) ∈ [(1, Instr.lcdWake, Mode.startup, (0x30 : Byte), 15000),
      (2, .lcdWake, .startup, 0x30, 4100), (3, .lcdWake, .startup, 0x30, 100), (4, .lcdMode4, .startup, 0x20, 4100),
      (5, .lcdFunctionSet, .cmd, 0x28, 100), (6, .lcdDisplayControl false false false, .cmd, 0x08, 100),
      (7, .lcdClearDisplay, .cmd, 0x01, 100), (8, .lcdEntryMode, .cmd, 0x06, 100),
      (9, .lcdDisplayControl true false false, .cmd, 0x0C, 100)]) :
    (row, ⟨k, mode, b, settle⟩) ∈ initRows.zip initTable :=
  List.mem_map_of_mem (f := fun l => (l.2.1, InitStep.mk l.1 l.2.2.1 l.2.2.2.1 l.2.2.2.2)) mem

/-- Settles O39: the row is the one the step sends. -/
theorem rowsInsideInitSendTheStepTheSequencerStandsAt : Obligations.RowsInsideInitSendTheStepTheSequencerStandsAt := by
  intro s k byte nib en row mode b settle session running mem
  have row_mem := mem_initRows mem
  have le : k ≤ 9 := initStep_k_le (List.of_mem_zip row_mem).2
  obtain ⟨t, runs, sent⟩ := exec_initRow row_mem session running
  have seq := sent.seq
  rw [running, nextSend_init le] at seq
  exact ⟨t, runs, sent.trace, seq, keepsAllButFrame_of_onlyTransport sent.keeps, sent.stage⟩

/-! ## The nine rows of init, one after another -/

/-- Where the sequencer stands after `k` sends of init (10_state R16). -/
def seqAfterSends (k : Nat) : Seq := if k = 9 then .idle else .running .init (k + 1) 0 .hi true

theorem initRows_step_k {k : Nat} {p : Instr × InitStep} (h : (initRows.zip initTable)[k]? = some p) :
    k < 9 ∧ p.2.k = k + 1 := by
  have lt : k < 9 := (List.getElem?_eq_some_iff.1 h).1
  have numbered : ∀ k < 9, ((initRows.zip initTable)[k]?.map fun p => p.2.k) = some (k + 1) := by decide
  have := numbered k lt
  rw [h] at this
  exact ⟨lt, Option.some.inj this⟩

/-- The events of init steps, each with its own backlight. -/
def stepEvents (st : Straps) (on : Bool) (steps : List InitStep) : List Event :=
  steps.flatMap fun l => frameEvents st l.mode (l.bl on) [l.byte] l.settle

/-- The rows of init from its `k`-th send on, run from where the sequencer stands after `k` sends. -/
theorem execAll_initRows {rows : List (Instr × InitStep)} {k : Nat} (le : k ≤ 9)
    (hrows : rows = (initRows.zip initTable).drop k) {s : State} (session : s.session = .opened)
    (seq : s.seq = seqAfterSends k) :
    ∃ t, execAll (rows.map Prod.fst) s = .next t ∧
      t.trace = s.trace ++ stepEvents s.straps (s.cmd.getLsbD 16) (rows.map Prod.snd) ∧ t.seq = .idle ∧
      OnlyTransport s t := by
  induction rows generalizing k s with
  | nil =>
    have all : 9 ≤ k := List.drop_eq_nil_iff.1 hrows.symm
    obtain rfl : k = 9 := by omega
    exact ⟨s, rfl, (List.append_nil _).symm, seq, OnlyTransport.refl s⟩
  | cons p rest ih =>
    have here : (initRows.zip initTable)[k]? = some p := by
      rw [← List.head?_drop, ← hrows, List.head?_cons]
    have later : rest = (initRows.zip initTable).drop (k + 1) := by
      rw [← List.tail_drop, ← hrows, List.tail_cons]
    obtain ⟨lt, number⟩ := initRows_step_k here
    rw [seqAfterSends, if_neg (by omega), ← number] at seq
    obtain ⟨u, runs, sent⟩ := exec_initRow (List.mem_of_getElem? here) session seq
    have moved := sent.seq
    rw [seq, nextSend_init (by omega), number] at moved
    obtain ⟨t, rest_runs, trace, idle, keeps⟩ :=
      ih (k := k + 1) (by omega) later (sent.keeps.session.trans session) moved
    refine ⟨t, ?_, ?_, idle, sent.keeps.trans keeps⟩
    · simp only [List.map_cons, execAll, runs, rest_runs]
    · rw [trace, sent.trace, sent.keeps.straps, sent.keeps.cmd, List.append_assoc]
      rfl

/-- Settles O25: all nine rows, from the place before the first send. -/
theorem nineWireRowsMakeTheEventsOfInit : Obligations.NineWireRowsMakeTheEventsOfInit := by
  intro s session seq
  obtain ⟨t, runs, trace, idle, keeps⟩ := execAll_initRows (k := 0) (Nat.zero_le 9) rfl session seq
  refine ⟨t, runs, ?_, idle, keepsAllButFrame_of_onlyTransport keeps⟩
  rw [trace, ← initTable_events]
  rfl

/-! ## A TransportByte by itself (log 14) -/

theorem transmit_trace (sls : List Slot) (s : State) :
    (transmit sls s).2.trace = s.trace ++ byteEvents s.straps (sls.map Slot.val) := by
  cases h : s.straps.transport
  · simp only [transmit, h, rawTransmit, rawWrites_trace, byteEvents, List.map_map]
    rfl
  · simp only [transmit, h, blockTransmit_eq, dropStage_fields, blockWrites_trace, stageFrame_fields, byteEvents]

theorem transmit_stage {sls : List Slot} (fits : sls.length ≤ 64) (s : State) :
    StageAfter sls.length s (transmit sls s).2 := by
  rw [StageAfter]
  cases h : s.straps.transport
  · obtain ⟨stage, stageLen⟩ := rawWrites_stage sls s
    simp only [transmit, h, rawTransmit]
    exact ⟨stageLen, fun a => by rw [stage]⟩
  · simp only [transmit, h, blockTransmit_eq, dropStage_fields, blockWrites_stage, stageFrame_fields, BitVec.toNat_ofNat]
    omega

theorem tbyteSent_keeps (rs en bl : Bool) (n : BitVec 4) (s : State) : OnlyTransport s (tbyteSent rs en bl n s) :=
  (transmit_keeps [loneSlot rs en bl n s] s).trans (by constructor <;> rfl)

theorem tbyteSent_stage (rs en bl : Bool) (n : BitVec 4) (s : State) : StageAfter 1 s (tbyteSent rs en bl n s) :=
  transmit_stage (sls := [loneSlot rs en bl n s]) (Nat.le_of_lt_succ (by simp)) s

/-- Settles O35: one slot handed to the channel. -/
theorem tbyteHandsOneByteToTheChannel : Obligations.TbyteHandsOneByteToTheChannel := by
  intro rs en bl n s session
  refine ⟨tbyteSent rs en bl n s, exec_wire_opened (not_isHost rfl) session, ?_, rfl,
    keepsAllButFrame_of_onlyTransport (tbyteSent_keeps rs en bl n s), tbyteSent_stage rs en bl n s⟩
  exact (transmit_trace [loneSlot rs en bl n s] s).trans (by unfold byteEvents; cases s.straps.transport <;> rfl)

/-! ## What every wire row does -/

/-- A wire row hands its bytes to the channel and leaves all else alone, and the sequencer idle if it was. -/
structure WireRan (s t : State) : Prop where
  keeps : OnlyTransport s t
  idle : s.seq = .idle → t.seq = .idle
  stage : ∃ n ≤ 4, StageAfter n s t
  empties : s.stage = ⟨[]⟩ → t.stage = ⟨[]⟩

theorem RowSent.wireRan {mode : Mode} {bl : Bool} {b : Byte} {n : Nat} {s t : State} (h : RowSent mode bl b n s t) :
    WireRan s t :=
  ⟨h.keeps, h.seq_idle, ⟨_, by split <;> decide, h.stage⟩, h.empties⟩

theorem wireFrame_wireRan (mode : Mode) (b : Byte) (bl : Bool) (n : Nat) (s : State) :
    WireRan s (wireFrame mode b bl n s) := by
  cases h : initStepFor mode b s with
  | none => rw [wireFrame_of_none h]; exact (send_rowSent ..).wireRan
  | some st => exact (rowSent_of_step h bl n).wireRan

theorem wireRun_wireRan {i : Instr} (wire : ¬ IsHost i) (s : State) : WireRan s (wireRun i s) := by
  cases i, wire using wireCases with
  | tbyte rs en bl n =>
    exact ⟨tbyteSent_keeps rs en bl n s, id, ⟨1, by decide, tbyteSent_stage rs en bl n s⟩, transmit_empties _⟩
  | lcdWake =>
    obtain ⟨keeps, idle, stage, empties⟩ := wireFrame_wireRan .startup 0x30 false
      (wakeSettle (Config.freeWakeAttempt s.freeIdx)) (nextFree s)
    exact ⟨(nextFree_keeps s).trans keeps, idle, stage, empties⟩
  | lcdMode4 => exact wireFrame_wireRan ..
  | lcdFunctionSet => exact wireFrame_wireRan ..
  | lcdClearDisplay => exact wireFrame_wireRan ..
  | lcdEntryMode => exact wireFrame_wireRan ..
  | lcdDisplayControl d c k => exact wireFrame_wireRan ..
  | lcdBacklightCarrier => exact wireFrame_wireRan ..
  | lcdSetAddress offset => exact wireFrame_wireRan ..
  | lcdData code => exact wireFrame_wireRan ..

/-- A wire row that comes to a next state. -/
theorem exec_wire_next {i : Instr} (wire : ¬ IsHost i) {s t : State} (h : exec i s = .next t) :
    s.session = .opened ∧ WireRan s t := by
  rw [exec_eq_wireRun wire] at h
  cases session : s.session with
  | closed => rw [withSession_closed session] at h; cases h
  | opened =>
    rw [withSession_opened session] at h
    obtain rfl := Host.Outcome.next.inj h
    exact ⟨rfl, wireRun_wireRan wire s⟩

end Sys2Proof.Proofs.WireRows

/-! # Host commands: admission, and what a command that runs may write -/

namespace Sys2Proof.Proofs.HostCommands

open Sys2Proof.Laws Sys2Proof.Machine Sys2Proof.Safety
open Sys2Proof.Proofs.Admission Sys2Proof.Proofs.ProtocolEngine Sys2Proof.Proofs.DeviceSession
open Sys2Proof.Proofs.FrameTransport Sys2Proof.Proofs.WireRows

/-! ## Admission (42 R80, 60 R107) -/

/-- The checks of a command's row of the table; CLOSE has none. -/
def hostChecks : Instr → State → List Check
  | .openDev _ _ => openChecks
  | .init _ height width => initChecks height width
  | .goto y x => gotoChecks y x
  | .print len y x => printChecks len y x
  | .clearRow line => clearRowChecks line
  | .clearAll _ | .backlight _ | .control _ _ _ _ => readyChecks
  | _ => fun _ => []

/-- What a command does once admitted. The wire rows are no commands. -/
def hostRun : Instr → State → Host.Outcome State Fault Refusal
  | .openDev path address => fun s => .next (runOpen path address s)
  | .init on height width => fun s => .next (runInit on height width s)
  | .goto y x => fun s => .next (runGoto y x s)
  | .print len y x => runPrint len y x
  | .clearAll _ => fun s => .next (runClearAll s)
  | .clearRow line => fun s => .next (runClearRow line s)
  | .backlight on => fun s => .next (runBacklight on s)
  | .control bl d c k => fun s => .next (runControl bl d c k s)
  | .close => execClose
  | _ => .next

theorem exec_host {i : Instr} (host : IsHost i) (s : State) : exec i s = admitThen (hostChecks i s) s (hostRun i) := by
  cases i, host using hostCases with
  | openDev path address => rfl
  | init on height width => rfl
  | goto y x => rfl
  | print len y x => rfl
  | clearAll line => rfl
  | clearRow line => rfl
  | backlight on => rfl
  | control bl d c k => rfl
  | close => rfl

theorem hostChecks_table {i : Instr} (host : IsHost i) (s : State) :
    firstFailing (hostChecks i s) = refusalOf s i := by
  cases i, host using hostCases with
  | openDev path address => exact openChecks_table path address s
  | init on height width => exact initChecks_table on height width s
  | goto y x => exact gotoChecks_table y x s
  | print len y x => exact printChecks_table len y x s
  | clearAll line => exact readyChecks_table line s
  | clearRow line => exact clearRowChecks_table line s
  | backlight on => exact readyChecks_table 0 s
  | control bl d c k => exact readyChecks_table 0 s
  | close => rfl

/-- A command that the table refuses changes the response and the sticky flag only. -/
theorem exec_refused {i : Instr} (host : IsHost i) {s : State} {r : Reason} (refused : refusalOf s i = some r) :
    exec i s = .next (raiseRefused r s) := by
  rw [exec_host host, admitThen_refused ((hostChecks_table host s).trans refused)]

/-- Any other command runs. -/
theorem exec_admitted {i : Instr} (host : IsHost i) {s : State} (admitted : refusalOf s i = none) :
    exec i s = hostRun i s := by
  rw [exec_host host, admitThen_admitted ((hostChecks_table host s).trans admitted)]

/-- What a command that comes to a next state was: refused, or admitted and run. -/
theorem exec_host_next {i : Instr} (host : IsHost i) {s t : State} (runs : exec i s = .next t) :
    (∃ r, refusalOf s i = some r ∧ t = raiseRefused r s) ∨ (refusalOf s i = none ∧ hostRun i s = .next t) := by
  cases admission : refusalOf s i with
  | some r => exact .inl ⟨r, rfl, Host.Outcome.next.inj (runs.symm.trans (exec_refused host admission))⟩
  | none => exact .inr ⟨rfl, exec_admitted host admission ▸ runs⟩

/-! ## What an admitted command does: each operation's rule, of the state it comes to -/

/-- What an operation's own rule says of the state after it. -/
theorem ran_of_refusedOr {i : Instr} {s t : State} {p : State → Prop} (rule : RefusedOr s i p) (host : IsHost i)
    (admitted : refusalOf s i = none) (runs : hostRun i s = .next t) : p t := by
  obtain ⟨-, ends⟩ := rule
  obtain ⟨u, runs', holds⟩ := ends admitted
  rw [exec_admitted host admitted, runs] at runs'
  obtain rfl := Host.Outcome.next.inj runs'
  exact holds

/-- Check 10 of a command that sends `n` bytes of LINE. -/
theorem fits_of_admitted {i : Instr} (host : IsHost i) {s : State} (admitted : refusalOf s i = none) {n : Nat}
    (mem : checkStaging n s ∈ hostChecks i s) : s.straps.transport = .block → 4 * n ≤ 64 :=
  (checkStaging_iff n s).1 (firstFailing_none.1 ((hostChecks_table host s).trans admitted) _ mem)

/-- Clear of a row sends `width` spaces, whatever the geometry (42 R90). -/
theorem clearRow_ran {line : BitVec 8} {s t : State} (admitted : refusalOf s (.clearRow line) = none)
    (runs : hostRun (.clearRow line) s = .next t) :
    ∃ bytes : List Byte, bytes.length < 128 ∧ (s.straps.transport = .block → 4 * bytes.length ≤ 64) ∧
      LineSent 0 (clearRowOf line s) bytes (beginOp .clearRow s) t := by
  have spaces : (List.replicate s.width.toNat 0x20#8).length = s.width.toNat := List.length_replicate
  have fits := fits_of_admitted (i := .clearRow line) rfl admitted (n := s.width.toNat) (by simp [hostChecks, clearRowChecks])
  have short := s.width.isLt
  rw [← spaces] at fits short
  refine ⟨_, short, fits, ?_⟩
  have ends : runClearRow line s = t := Host.Outcome.next.inj runs
  rw [← ends, runClearRow]
  exact sendLine_spec 0 (clearRowOf line s) (s := beginOp .clearRow s) short fits

/-- Print sends the bytes it reads from TEXT, if all of them have a value (42 R88). -/
theorem print_ran {len y x : BitVec 8} {s t : State} (admitted : refusalOf s (.print len y x) = none)
    (runs : hostRun (.print len y x) s = .next t) :
    ∃ bytes : List Byte, bytes.length < 128 ∧ (s.straps.transport = .block → 4 * bytes.length ≤ 64) ∧
      LineSent x.toInt y.toInt bytes (beginOp .print s) t := by
  have fits := fits_of_admitted (i := .print len y x) rfl admitted (n := printLen len s) (by simp [hostChecks, printChecks])
  have runs : runPrint len y x s = .next t := runs
  rw [runPrint] at runs
  cases reads : s.text.readFrom 0 (printLen len s) with
  | none => rw [reads] at runs; cases runs
  | some bytes =>
    have length : bytes.length = printLen len s := readFrom_length reads
    have short : bytes.length < 128 := by
      have := s.width.isLt
      rw [length, printLen]
      omega
    rw [← length] at fits
    refine ⟨bytes, short, fits, ?_⟩
    rw [reads] at runs
    rw [← Host.Outcome.next.inj runs]
    exact sendLine_spec x.toInt y.toInt (s := beginOp .print s) short fits

/-- Close with no session open only responds (43 R98). -/
theorem close_ran_closed {s t : State} (closed : s.session = .closed) (runs : hostRun .close s = .next t) :
    t = endSuccess s := by
  have ends := execClose_closed closed
  exact Host.Outcome.next.inj (runs.symm.trans ends)

theorem close_ran_opened {s t : State} (opened : s.session = .opened) (runs : hostRun .close s = .next t) :
    t = runClose s := by
  have ends := execClose_opened opened
  exact Host.Outcome.next.inj (runs.symm.trans ends)

/-! ## How a command ends -/

/-- The channel answers good for as long as a command can ask it. -/
def GoodAhead (s : State) : Prop := (∀ k, k < 512 → boolAt s k = true) ∧ ∀ k, k < 9 → codeAt s k = 0

/-- A frame that asks for no more than those answers is answered good. -/
theorem frameGood_of_goodAhead {s : State} (good : GoodAhead s) {w c n : Nat} (writes : w + n ≤ 512) (codes : c ≤ 7) :
    frameGood s w c n = true := by
  obtain ⟨bools, zeros⟩ := good
  have chunks : chunkCount n ≤ 2 := by unfold chunkCount; split <;> decide
  unfold frameGood
  split
  · simp only [writesGood, List.all_eq_true, List.mem_range]
    exact fun k hk => bools _ (by omega)
  · simp only [codesGood, List.all_eq_true, List.mem_range, beq_iff_eq]
    exact fun k hk => zeros _ (by omega)

theorem initGood_of_goodAhead {s : State} (good : GoodAhead s) : initGood s = true := by
  obtain ⟨bools, zeros⟩ := good
  unfold initGood
  split
  · exact (writesGood_iff s 28).2 fun k hk => bools k (by omega)
  · exact (codesGood_iff s 9).2 zeros

/-- The frames of a command that sends LINE. -/
theorem lineGood_of_goodAhead {s : State} (good : GoodAhead s) {n : Nat} (short : n < 128) :
    (frameGood s 0 0 4 && frameGood s 4 1 (4 * n)) = true := by
  rw [frameGood_of_goodAhead good (by omega) (by omega), frameGood_of_goodAhead good (by omega) (by omega)]
  rfl

/-- An admitted command ends in success or in a failure, and never in a failure when the channel answers good. -/
theorem host_ended {i : Instr} (host : IsHost i) {s t : State} (admitted : refusalOf s i = none)
    (runs : hostRun i s = .next t) : ∃ ok e, Ended ok e s t ∧ (GoodAhead s → ok = true) := by
  have one_frame : GoodAhead s → frameGood s 0 0 4 = true := fun good =>
    frameGood_of_goodAhead good (by decide) (by decide)
  cases i, host using hostCases with
  | openDev path address =>
    obtain ⟨-, resp, -, fault, seq, -⟩ :=
      ran_of_refusedOr (openBindsOrReportsTheFailedStep path address s) rfl admitted runs
    refine ⟨boolAt s 0 && boolAt s 1, if boolAt s 0 then .addressBind else .channelOpen, ⟨?_, fault, seq⟩, ?_⟩
    · rw [resp]; cases boolAt s 0 <;> cases boolAt s 1 <;> rfl
    · rintro ⟨bools, -⟩
      rw [bools 0 (by decide), bools 1 (by decide)]; rfl
  | init on height width =>
    obtain ⟨-, ended, -⟩ := ran_of_refusedOr (initRunsNineSendsAndCountsThem on height width s) rfl admitted runs
    exact ⟨_, _, ended, initGood_of_goodAhead⟩
  | goto y x =>
    obtain ⟨-, ended, -⟩ := ran_of_refusedOr (gotoSendsTheSetAddressByte y x s) rfl admitted runs
    exact ⟨_, _, ended, one_frame⟩
  | print len y x =>
    obtain ⟨bytes, short, -, sent⟩ := print_ran admitted runs
    have ended : Ended (frameGood s 0 0 4 && frameGood s 4 1 (4 * bytes.length)) .transportWrite s t := sent.ended
    exact ⟨_, _, ended, fun good => lineGood_of_goodAhead good short⟩
  | clearAll line =>
    obtain ⟨-, ended, -⟩ := ran_of_refusedOr (clearAllSendsOneByteWithTheLongSettle line s) rfl admitted runs
    exact ⟨_, _, ended, one_frame⟩
  | clearRow line =>
    obtain ⟨bytes, short, -, sent⟩ := clearRow_ran admitted runs
    have ended : Ended (frameGood s 0 0 4 && frameGood s 4 1 (4 * bytes.length)) .transportWrite s t := sent.ended
    exact ⟨_, _, ended, fun good => lineGood_of_goodAhead good short⟩
  | backlight on =>
    obtain ⟨-, ended, -⟩ := ran_of_refusedOr (backlightIsWrittenAndCarriedByItsFrame on s) rfl admitted runs
    exact ⟨_, _, ended, one_frame⟩
  | control bl d c k =>
    obtain ⟨-, ended, -⟩ := ran_of_refusedOr (controlIsWrittenAndCarriedByItsFrame bl d c k s) rfl admitted runs
    exact ⟨_, _, ended, one_frame⟩
  | close =>
    obtain ⟨-, of_opened⟩ := closeReleasesAndNeverFails s
    cases session : s.session with
    | closed =>
      obtain rfl := close_ran_closed session runs
      exact ⟨true, .channelOpen, ⟨rfl, rfl, rfl⟩, fun _ => rfl⟩
    | opened =>
      obtain ⟨u, runs', -, resp, fault, seq, -⟩ := of_opened session
      obtain rfl := Host.Outcome.next.inj (runs.symm.trans runs')
      exact ⟨true, .channelOpen, ⟨resp, fault, seq⟩, fun _ => rfl⟩

theorem result_of_ended {ok : Bool} {e : Err} {s t : State} (ended : Ended ok e s t) :
    t.resp.result = if ok then 1 else 2 := by
  obtain ⟨resp, -⟩ := ended
  rw [resp]; cases ok <;> rfl

/-- Settles O54: the commands that fail do so on an answer that was not good. -/
theorem goodAnswersNeverEndInFailure : Obligations.GoodAnswersNeverEndInFailure := by
  intro i s t host bools zeros runs
  obtain ⟨r, -, rfl⟩ | ⟨admitted, runs⟩ := exec_host_next host runs
  · exact (by decide : (3 : BitVec 2) ≠ 2)
  · obtain ⟨ok, e, ended, good⟩ := host_ended host admitted runs
    rw [result_of_ended ended, good ⟨bools, zeros⟩]
    decide

/-- Settles O33: the refusal by the table; an admitted command ends in success or failure. -/
theorem refusalFollowsTheAdmissionTable : Obligations.RefusalFollowsTheAdmissionTable := by
  refine fun i s host => ⟨fun r refused => exec_refused host refused, fun admitted t runs => ?_⟩
  rw [exec_admitted host admitted] at runs
  obtain ⟨ok, e, ended, -⟩ := host_ended host admitted runs
  have result := result_of_ended ended
  obtain ⟨-, fault, -⟩ := ended
  refine ⟨?_, fault⟩
  rw [result]
  cases ok <;> decide

/-! ## PRINT of a byte that has no value (10_state R24, log 6) -/

/-- Reading a run fails at a byte that has no value. -/
theorem readFrom_none {m : Memory} {n a k : Nat} (hk : k < n) (unwritten : m.read (a + k) = none) :
    m.readFrom a n = none := by
  induction n generalizing a k with
  | zero => omega
  | succ n ih =>
    cases k with
    | zero => simp only [Memory.readFrom, show m.read a = none from unwritten]
    | succ k =>
      have later : m.readFrom (a + 1) n = none := ih (k := k) (by omega) (by rwa [Nat.add_assoc, Nat.add_comm 1 k])
      cases here : m.read a <;> simp only [Memory.readFrom, here, later]

/-- Settles O28: an admitted PRINT reads the run that the byte stands in. -/
theorem printStopsOnTextNothingHasWritten : Obligations.PrintStopsOnTextNothingHasWritten := by
  intro len y x s k admitted inside unwritten
  have none_read : s.text.readFrom 0 (printLen len s) = none := readFrom_none inside (by rwa [Nat.zero_add])
  calc exec (.print len y x) s
      = runPrint len y x s := exec_admitted (i := .print len y x) rfl admitted
    _ = .fault .textUnspecified := by simp only [runPrint, none_read]

/-! ## What each state of the session refuses (60 R115) -/

theorem macroOf_closed_iff (s : State) : macroOf s = .closed ↔ s.session = .closed := by
  cases session : s.session <;> cases phase : s.phase <;> simp [macroOf, session, phase]

theorem macroOf_uninitialized_iff (s : State) :
    macroOf s = .uninitialized ↔ s.session = .opened ∧ s.phase = .uninitialized := by
  cases session : s.session <;> cases phase : s.phase <;> simp [macroOf, session, phase]

theorem macroOf_ready_iff (s : State) : macroOf s = .ready ↔ s.session = .opened ∧ s.phase = .ready := by
  cases session : s.session <;> cases phase : s.phase <;> simp [macroOf, session, phase]

/-- With no session only OPEN and CLOSE pass check 3. -/
theorem refusalOf_closed {i : Instr} (host : IsHost i) {s : State} (closed : s.session = .closed) (not_close : i ≠ .close)
    (not_open : ∀ p a, i ≠ .openDev p a) : refusalOf s i = some .noSession := by
  cases i, host using hostCases with
  | openDev path address => exact absurd rfl (not_open path address)
  | close => exact absurd rfl not_close
  | init on height width => exact if_pos closed
  | goto y x => exact if_pos closed
  | print len y x => exact if_pos closed
  | clearAll line => exact if_pos closed
  | clearRow line => exact if_pos closed
  | backlight on => exact if_pos closed
  | control bl d c k => exact if_pos closed

/-- Before init only OPEN, INIT and CLOSE do not reach check 5. -/
theorem refusalOf_uninitialized {i : Instr} (host : IsHost i) {s : State} (opened : s.session = .opened)
    (phase : s.phase = .uninitialized) (not_close : i ≠ .close) (not_open : ∀ p a, i ≠ .openDev p a)
    (not_init : ∀ on h w, i ≠ .init on h w) : refusalOf s i = some .notReady := by
  cases i, host using hostCases with
  | openDev path address => exact absurd rfl (not_open path address)
  | init on height width => exact absurd rfl (not_init on height width)
  | close => exact absurd rfl not_close
  | goto y x => simp [refusalOf, opened, phase]
  | print len y x => simp [refusalOf, opened, phase]
  | clearAll line => simp [refusalOf, opened, phase]
  | clearRow line => simp [refusalOf, opened, phase]
  | backlight on => simp [refusalOf, opened, phase]
  | control bl d c k => simp [refusalOf, opened, phase]

theorem refusalOf_open_opened {s : State} (opened : s.session = .opened) (p : BitVec 8) (a : BitVec 7) :
    refusalOf s (.openDev p a) = some .sessionBusy := if_pos opened

theorem refusalOf_init_ready {s : State} (opened : s.session = .opened) (ready : s.phase = .ready) (on : Bool)
    (h w : BitVec 8) : refusalOf s (.init on h w) = some .alreadyInitialized := by
  simp [refusalOf, opened, ready]

/-- Settles O34: each refusal is the table's. -/
theorem macroStatesRefuseTheirOperations : Obligations.MacroStatesRefuseTheirOperations := by
  intro i s host not_close
  rw [macroOf_closed_iff, macroOf_uninitialized_iff, macroOf_ready_iff]
  refine ⟨fun closed not_open => ?_, fun ⟨opened, phase⟩ not_init => ?_, fun ⟨opened, ready⟩ => ⟨?_, ?_⟩⟩
  · exact exec_refused host (refusalOf_closed host closed not_close not_open)
  · by_cases open_dev : ∃ p a, i = .openDev p a
    · obtain ⟨p, a, rfl⟩ := open_dev
      exact exec_refused host (refusalOf_open_opened opened p a)
    · have not_open : ∀ p a, i ≠ .openDev p a := fun p a h => open_dev ⟨p, a, h⟩
      rw [exec_refused host (refusalOf_uninitialized host opened phase not_close not_open not_init)]
      split
      · next p a => exact absurd rfl (not_open p a)
      · rfl
  · rintro p a rfl
    exact exec_refused host (refusalOf_open_opened opened p a)
  · rintro on h w rfl
    exact exec_refused host (refusalOf_init_ready opened ready on h w)

/-! ## What an instruction may write (10_state R9) -/

/-- The registers that an instruction which comes to a next state leaves alone, or may write. -/
structure Ran (i : Instr) (s t : State) : Prop where
  host : KeepsHost s t
  session : t.session = s.session ∨ (∃ p a, i = .openDev p a) ∨ i = .close
  phase : t.phase = s.phase ∨ (∃ p a, i = .openDev p a) ∨ (∃ on h w, i = .init on h w) ∨ i = .close
  place : (t.path = s.path ∧ t.addr = s.addr) ∨ ∃ p a, i = .openDev p a
  geometry : KeepsGeometry s t ∨ ∃ on h w, i = .init on h w
  bl : t.bl = s.bl ∨ (∃ on h w, i = .init on h w) ∨ (∃ on, i = .backlight on) ∨ (∃ b d c k, i = .control b d c k) ∨
    i = .close
  flags : (t.disp = s.disp ∧ t.cur = s.cur ∧ t.blink = s.blink) ∨
    (∃ on h w, i = .init on h w) ∨ ∃ b d c k, i = .control b d c k
  line : KeepsLine s t ∨ (∃ len y x, i = .print len y x) ∨ ∃ line, i = .clearRow line
  stage : KeepsStage s t ∨ (s.straps.transport = .block ∧ t.stageLen.toNat ≤ 64)
  resp : t.resp = s.resp ∨ IsHost i

/-- STAGE after a frame that fits it. -/
theorem keepsStage_or_staged {n : Nat} {s t : State} (after : StageAfter n s t)
    (fits : s.straps.transport = .block → n ≤ 64) :
    KeepsStage s t ∨ (s.straps.transport = .block ∧ t.stageLen.toNat ≤ 64) := by
  unfold StageAfter at after
  split at after
  · exact .inl after
  · next block => exact .inr ⟨block, after ▸ fits block⟩

theorem keepsStage_or_staged_four {s t : State} (after : StageAfter 4 s t) :
    KeepsStage s t ∨ (s.straps.transport = .block ∧ t.stageLen.toNat ≤ 64) :=
  keepsStage_or_staged after fun _ => by decide

/-- An instruction that leaves all but the trace, the sequencer, STAGE, the response and the sticky flag alone. -/
theorem ran_of_keeps {i : Instr} {s t : State} (host : KeepsHost s t) (session : KeepsSession s t)
    (geometry : KeepsGeometry s t) (display : KeepsDisplay s t) (line : KeepsLine s t)
    (stage : KeepsStage s t ∨ (s.straps.transport = .block ∧ t.stageLen.toNat ≤ 64))
    (resp : t.resp = s.resp ∨ IsHost i) : Ran i s t := by
  obtain ⟨session, phase, path, addr⟩ := session
  obtain ⟨bl, disp, cur, blink⟩ := display
  exact {
    host, stage, resp
    session := .inl session, phase := .inl phase, place := .inl ⟨path, addr⟩, geometry := .inl geometry
    bl := .inl bl, flags := .inl ⟨disp, cur, blink⟩, line := .inl line }

theorem refused_ran {i : Instr} (host : IsHost i) (r : Reason) (s : State) : Ran i s (raiseRefused r s) :=
  ran_of_keeps ⟨rfl, rfl, rfl, fun _ => rfl⟩ ⟨rfl, rfl, rfl, rfl⟩ ⟨rfl, rfl⟩ ⟨rfl, rfl, rfl, rfl⟩ ⟨rfl, fun _ => rfl⟩
    (.inl ⟨rfl, fun _ => rfl⟩) (.inr host)

theorem wire_ran {i : Instr} {s t : State} (ran : WireRan s t) : Ran i s t := by
  obtain ⟨keeps, -, ⟨n, le, stage⟩, -⟩ := ran
  obtain ⟨session, geometry, display, host, line, resp, -⟩ := keepsAllButFrame_of_onlyTransport keeps
  exact ran_of_keeps host session geometry display line (keepsStage_or_staged stage fun _ => by omega) (.inl resp)

/-- A command that sends LINE, from the state in which it begins. -/
theorem line_ran {i : Instr} {op : Op} {x y : Int} {bytes : List Byte} {s t : State}
    (fits : s.straps.transport = .block → 4 * bytes.length ≤ 64) (sent : LineSent x y bytes (beginOp op s) t)
    (host : IsHost i) (writes : (∃ len y x, i = .print len y x) ∨ ∃ line, i = .clearRow line) : Ran i s t := by
  obtain ⟨-, -, -, stage, ⟨session, phase, path, addr⟩, geometry, ⟨bl, disp, cur, blink⟩, hostKept⟩ := sent
  have staged : s.straps.transport = .block → (if frameGood (beginOp op s) 0 0 4 then 4 * bytes.length else 4) ≤ 64 := by
    intro block
    split
    · exact fits block
    · decide
  exact {
    host := hostKept, stage := keepsStage_or_staged (s := s) stage staged, resp := .inr host
    session := .inl session, phase := .inl phase, place := .inl ⟨path, addr⟩, geometry := .inl geometry
    bl := .inl bl, flags := .inl ⟨disp, cur, blink⟩, line := .inr writes }

theorem host_ran {i : Instr} (host : IsHost i) {s t : State} (admitted : refusalOf s i = none)
    (runs : hostRun i s = .next t) : Ran i s t := by
  cases i, host using hostCases with
  | openDev path address =>
    obtain ⟨-, -, -, -, -, geometry, ⟨bl, disp, cur, blink⟩, host, line, stage⟩ :=
      ran_of_refusedOr (openBindsOrReportsTheFailedStep path address s) rfl admitted runs
    have op : ∃ p a, Instr.openDev path address = .openDev p a := ⟨_, _, rfl⟩
    exact {
      host, stage := .inl stage, resp := .inr rfl
      session := .inr (.inl op), phase := .inr (.inl op), place := .inr op, geometry := .inl geometry
      bl := .inl bl, flags := .inl ⟨disp, cur, blink⟩, line := .inl line }
  | init on height width =>
    obtain ⟨-, -, -, -, -, -, -, -, -, session, path, addr, host, line, stage⟩ :=
      ran_of_refusedOr (initRunsNineSendsAndCountsThem on height width s) rfl admitted runs
    have op : ∃ o h w, Instr.init on height width = .init o h w := ⟨_, _, _, rfl⟩
    exact {
      host, stage := keepsStage_or_staged_four stage, resp := .inr rfl
      session := .inl session, phase := .inr (.inr (.inl op)), place := .inl ⟨path, addr⟩, geometry := .inr op
      bl := .inr (.inl op), flags := .inr (.inl op), line := .inl line }
  | goto y x =>
    obtain ⟨-, -, session, geometry, display, host, line, stage⟩ :=
      ran_of_refusedOr (gotoSendsTheSetAddressByte y x s) rfl admitted runs
    exact ran_of_keeps host session geometry display line (keepsStage_or_staged_four stage) (.inr rfl)
  | print len y x =>
    obtain ⟨bytes, -, fits, sent⟩ := print_ran admitted runs
    exact line_ran fits sent rfl (.inl ⟨_, _, _, rfl⟩)
  | clearAll line =>
    obtain ⟨-, -, session, geometry, display, host, line, stage⟩ :=
      ran_of_refusedOr (clearAllSendsOneByteWithTheLongSettle line s) rfl admitted runs
    exact ran_of_keeps host session geometry display line (keepsStage_or_staged_four stage) (.inr rfl)
  | clearRow line =>
    obtain ⟨bytes, -, fits, sent⟩ := clearRow_ran admitted runs
    exact line_ran fits sent rfl (.inr ⟨_, rfl⟩)
  | backlight on =>
    obtain ⟨-, -, -, disp, cur, blink, ⟨session, phase, path, addr⟩, geometry, host, line, stage⟩ :=
      ran_of_refusedOr (backlightIsWrittenAndCarriedByItsFrame on s) rfl admitted runs
    exact {
      host, stage := keepsStage_or_staged_four stage, resp := .inr rfl
      session := .inl session, phase := .inl phase, place := .inl ⟨path, addr⟩, geometry := .inl geometry
      bl := .inr (.inr (.inl ⟨_, rfl⟩)), flags := .inl ⟨disp, cur, blink⟩, line := .inl line }
  | control bl d c k =>
    obtain ⟨-, -, -, -, -, -, ⟨session, phase, path, addr⟩, geometry, host, line, stage⟩ :=
      ran_of_refusedOr (controlIsWrittenAndCarriedByItsFrame bl d c k s) rfl admitted runs
    have op : ∃ b d' c' k', Instr.control bl d c k = .control b d' c' k' := ⟨_, _, _, _, rfl⟩
    exact {
      host, stage := keepsStage_or_staged_four stage, resp := .inr rfl
      session := .inl session, phase := .inl phase, place := .inl ⟨path, addr⟩, geometry := .inl geometry
      bl := .inr (.inr (.inr (.inl op))), flags := .inr (.inr op), line := .inl line }
  | close =>
    obtain ⟨-, of_opened⟩ := closeReleasesAndNeverFails s
    cases opened : s.session with
    | closed =>
      rw [close_ran_closed opened runs]
      exact ran_of_keeps ⟨rfl, rfl, rfl, fun _ => rfl⟩ ⟨rfl, rfl, rfl, rfl⟩ ⟨rfl, rfl⟩ ⟨rfl, rfl, rfl, rfl⟩
        ⟨rfl, fun _ => rfl⟩ (.inl ⟨rfl, fun _ => rfl⟩) (.inr rfl)
    | opened =>
      obtain ⟨u, runs', -, -, -, -, -, -, path, addr, -, disp, cur, blink, geometry, host, line, stage⟩ := of_opened opened
      obtain rfl := Host.Outcome.next.inj (runs.symm.trans runs')
      exact {
        host, stage := keepsStage_or_staged_four stage, resp := .inr rfl
        session := .inr (.inr rfl), phase := .inr (.inr (.inr rfl)), place := .inl ⟨path, addr⟩
        geometry := .inl geometry, bl := .inr (.inr (.inr (.inr rfl))), flags := .inl ⟨disp, cur, blink⟩
        line := .inl line }

/-- What any instruction that comes to a next state may write. -/
theorem exec_ran {i : Instr} {s t : State} (runs : exec i s = .next t) : Ran i s t := by
  by_cases host : IsHost i
  · obtain ⟨r, -, rfl⟩ | ⟨admitted, runs⟩ := exec_host_next host runs
    · exact refused_ran host r s
    · exact host_ran host admitted runs
  · obtain ⟨-, ran⟩ := exec_wire_next host runs
    exact wire_ran ran

/-- Settles O52: no operation's rule writes the host's part. -/
theorem noInstructionWritesTheHostsState : Obligations.NoInstructionWritesTheHostsState :=
  fun _ _ _ runs => (exec_ran runs).host

/-- Settles O53: a register that is not left alone is one the operation may write. -/
theorem registersAreWrittenByTheirOperationsOnly : Obligations.RegistersAreWrittenByTheirOperationsOnly := by
  intro i s t runs
  obtain ⟨-, session, phase, place, geometry, bl, flags, line, stage, resp⟩ := exec_ran runs
  exact ⟨session.resolve_left, phase.resolve_left, place.resolve_left, geometry.resolve_left, bl.resolve_left,
    flags.resolve_left, line.resolve_left, fun changed => (stage.resolve_left changed).1, resp.resolve_left⟩

end Sys2Proof.Proofs.HostCommands

/-! # Delays: the microseconds a command requests -/

namespace Sys2Proof.Proofs.Delays

open Sys2Proof.Laws Sys2Proof.Machine Sys2Proof.Safety
open Sys2Proof.Proofs.ProtocolEngine Sys2Proof.Proofs.DeviceSession
open Sys2Proof.Proofs.WireRows Sys2Proof.Proofs.HostCommands

/-- The microseconds that events request (70 R136). -/
def micros (ev : List Event) : Nat := (ev.map Event.micros).sum

theorem micros_append (a b : List Event) : micros (a ++ b) = micros a + micros b := by
  simp only [micros, List.map_append, List.sum_append]

/-- Bytes on the channel request no time. -/
theorem micros_byteEvents (st : Straps) (bytes : List Byte) : micros (byteEvents st bytes) = 0 := by
  unfold byteEvents chunkEvents
  split
  · simp [micros, Function.comp_def, Event.micros]
  · split <;> rfl

/-- A frame requests the caller's figure, or the default in its place (raw), or both (block): 70 R135. -/
theorem micros_frameEvents (st : Straps) (mode : Mode) (bl : Bool) (p : List Byte) (n : Nat) :
    micros (frameEvents st mode bl p n)
      = if st.transport = .raw then (if n = 0 then st.tDefaultUs else n) else n + st.tDefaultUs := by
  rw [frameEvents, micros_append, micros_byteEvents, Nat.zero_add, settleEvents]
  cases st.transport <;> simp [micros, Event.micros]

/-- A frame with no figure of its own requests one default, over either writer. -/
theorem micros_frameEvents_zero (st : Straps) (mode : Mode) (bl : Bool) (p : List Byte) :
    micros (frameEvents st mode bl p 0) = st.tDefaultUs := by
  rw [micros_frameEvents, if_pos rfl, Nat.zero_add, ite_self]

/-- A frame with its own figure. -/
theorem micros_frameEvents_pos (st : Straps) (mode : Mode) (bl : Bool) (p : List Byte) {n : Nat} (hn : n ≠ 0) :
    micros (frameEvents st mode bl p n) = if st.transport = .raw then n else n + st.tDefaultUs := by
  rw [micros_frameEvents, if_neg hn]

/-- The figures of 42 R82 add up to 23800 (log 26). -/
theorem micros_initEvents (st : Straps) (on : Bool) :
    micros (initEvents st on) = if st.transport = .raw then 23800 else 23800 + 9 * st.tDefaultUs := by
  simp only [initEvents, initLines, List.flatMap_cons, List.flatMap_nil, micros_append, micros_frameEvents]
  cases st.transport <;> simp [micros]
  omega

/-- The frames of a command that sends LINE. -/
theorem micros_line (s : State) (p q : List Byte) :
    micros (frameEvents s.straps .cmd s.bl p 0 ++ if frameGood s 0 0 4 then frameEvents s.straps .data s.bl q 0 else [])
      = if frameGood s 0 0 4 then 2 * s.straps.tDefaultUs else s.straps.tDefaultUs := by
  rw [micros_append, micros_frameEvents_zero]
  split
  · rw [micros_frameEvents_zero]; omega
  · rfl

/-- The microseconds an admitted command requests (70 R135, R136). -/
def requested (s : State) : Instr → Nat
  | .init _ _ _ => if s.straps.transport = .raw then 23800 else 23800 + 9 * s.straps.tDefaultUs
  | .goto _ _ | .backlight _ | .control _ _ _ _ => s.straps.tDefaultUs
  | .print _ _ _ | .clearRow _ => if frameGood s 0 0 4 then 2 * s.straps.tDefaultUs else s.straps.tDefaultUs
  | .clearAll _ => if s.straps.transport = .raw then 2000 else 2000 + s.straps.tDefaultUs
  | .close => if s.session = .opened then s.straps.tDefaultUs else 0
  | _ => 0

/-- An admitted command appends events that request just that. -/
theorem host_requested {i : Instr} (host : IsHost i) {s t : State} (admitted : refusalOf s i = none)
    (runs : hostRun i s = .next t) : ∃ ev, t.trace = s.trace ++ ev ∧ micros ev = requested s i := by
  cases i, host using hostCases with
  | openDev path address =>
    obtain ⟨trace, -⟩ := ran_of_refusedOr (openBindsOrReportsTheFailedStep path address s) rfl admitted runs
    refine ⟨_, trace, ?_⟩
    cases boolAt s 0 <;> cases boolAt s 1 <;> rfl
  | init on height width =>
    obtain ⟨trace, -⟩ := ran_of_refusedOr (initRunsNineSendsAndCountsThem on height width s) rfl admitted runs
    exact ⟨_, trace, micros_initEvents s.straps on⟩
  | goto y x =>
    obtain ⟨trace, -⟩ := ran_of_refusedOr (gotoSendsTheSetAddressByte y x s) rfl admitted runs
    exact ⟨_, trace, micros_frameEvents_zero ..⟩
  | print len y x =>
    obtain ⟨bytes, -, -, sent⟩ := print_ran admitted runs
    exact ⟨_, sent.trace.trans (List.append_assoc ..), micros_line s _ bytes⟩
  | clearAll line =>
    obtain ⟨trace, -⟩ := ran_of_refusedOr (clearAllSendsOneByteWithTheLongSettle line s) rfl admitted runs
    exact ⟨_, trace, micros_frameEvents_pos _ _ _ _ (by decide)⟩
  | clearRow line =>
    obtain ⟨bytes, -, -, sent⟩ := clearRow_ran admitted runs
    exact ⟨_, sent.trace.trans (List.append_assoc ..), micros_line s _ bytes⟩
  | backlight on =>
    obtain ⟨trace, -⟩ := ran_of_refusedOr (backlightIsWrittenAndCarriedByItsFrame on s) rfl admitted runs
    exact ⟨_, trace, micros_frameEvents_zero ..⟩
  | control bl d c k =>
    obtain ⟨trace, -⟩ := ran_of_refusedOr (controlIsWrittenAndCarriedByItsFrame bl d c k s) rfl admitted runs
    exact ⟨_, trace, micros_frameEvents_zero ..⟩
  | close =>
    obtain ⟨-, of_opened⟩ := closeReleasesAndNeverFails s
    cases session : s.session with
    | closed =>
      obtain rfl := close_ran_closed session runs
      have none_requested : requested s .close = 0 := if_neg (by rw [session]; nofun)
      exact ⟨[], (List.append_nil _).symm, none_requested.symm⟩
    | opened =>
      obtain ⟨u, runs', trace, -⟩ := of_opened session
      obtain rfl := Host.Outcome.next.inj (runs.symm.trans runs')
      have one_default : requested s .close = s.straps.tDefaultUs := if_pos session
      refine ⟨_, trace.trans (List.append_assoc ..), ?_⟩
      rw [micros_append, micros_frameEvents_zero, one_default]
      rfl

/-- Settles O55: command by command, what `requested` gives. -/
theorem commandsRequestTheirDelays : Obligations.CommandsRequestTheirDelays := by
  intro s t i d host runs hd
  subst hd
  obtain ⟨r, refused, rfl⟩ | ⟨admitted, runs⟩ := exec_host_next host runs
  · refine ⟨[], (List.append_nil _).symm, fun _ => rfl, fun admitted => ?_⟩
    rw [refused] at admitted
    cases admitted
  · obtain ⟨ev, trace, sum⟩ := host_requested host admitted runs
    refine ⟨ev, trace, fun refused => absurd admitted refused, fun _ => ?_⟩
    rw [show (ev.map Event.micros).sum = requested s i from sum]
    refine ⟨?_, ?_, ?_, ?_, ?_, ?_, ?_, ?_, ?_⟩
    · rintro p a rfl; rfl
    · rintro on h w rfl; rfl
    · rintro y x rfl; rfl
    · rintro len y x rfl; rfl
    · rintro line rfl; rfl
    · rintro line rfl; rfl
    · rintro on rfl; rfl
    · rintro b p c k rfl; rfl
    · rintro rfl; rfl

end Sys2Proof.Proofs.Delays

/-! # Steps: what a step takes from the queue, and what every step keeps -/

namespace Sys2Proof.Proofs.Steps

open Sys2Proof.Laws Sys2Proof.Machine Sys2Proof.Safety
open Sys2Proof.Proofs.ProtocolEngine Sys2Proof.Proofs.DeviceSession Sys2Proof.Proofs.ResetAndHazards
open Sys2Proof.Proofs.RoundTrip Sys2Proof.Proofs.WireRows Sys2Proof.Proofs.HostCommands

/-! ## What a step can do -/

/-- The state in which a word's instruction runs: the word taken from the queue and, if it is a host word, latched. -/
def taken (f : Format) (w : Word) (rest : List Input) (s : State) : State := latch f w { s with inbox := rest }

theorem taken_eq (f : Format) (w : Word) (rest : List Input) (s : State) :
    taken f w rest s = { s with inbox := rest, cmd := if f = .host32 then w else s.cmd } := by
  cases f <;> rfl

/-- Every way in which a step comes to a next state. -/
inductive Stepped (s : State) : State → Prop
  | idle (inbox : s.inbox = []) : Stepped s s
  | reset {rest : List Input} (inbox : s.inbox = .resetPulse :: rest) : Stepped s (resetPulse { s with inbox := rest })
  | text {a : Nat} {b : Byte} {rest : List Input} (inbox : s.inbox = .text a b :: rest) (inside : a < 255) :
    Stepped s { s with inbox := rest, text := s.text.write a b }
  | illegal {w : Word} {rest : List Input} {e : DecodeError} (inbox : s.inbox = .word .host32 w :: rest)
    (bad : decode .host32 w = .bad e) : Stepped s (raiseRefused .illegalCommand (taken .host32 w rest s))
  | runs {f : Format} {w : Word} {rest : List Input} {i : Instr} {t : State} (inbox : s.inbox = .word f w :: rest)
    (decodes : decode f w = .ok i) (ends : exec i (taken f w rest s) = .next t) : Stepped s t

theorem step_idle {s : State} (inbox : s.inbox = []) : step s = .next s := by
  simp only [step, fetch, inbox]

theorem step_text {s : State} {a : Nat} {b : Byte} {rest : List Input} (inbox : s.inbox = .text a b :: rest) :
    step s = hostWriteText a b { s with inbox := rest } := by
  simp only [step, fetch, inbox]

theorem step_decoded {s : State} {f : Format} {w : Word} {rest : List Input} {i : Instr}
    (inbox : s.inbox = .word f w :: rest) (decodes : decode f w = .ok i) : step s = exec i (taken f w rest s) := by
  simp only [step, fetch, inbox, decodes, taken]

theorem step_undecoded {s : State} {f : Format} {w : Word} {rest : List Input} {e : DecodeError}
    (inbox : s.inbox = .word f w :: rest) (bad : decode f w = .bad e) : step s = illegalWord f e (taken f w rest s) := by
  simp only [step, fetch, inbox, bad, taken]

theorem step_text_inside {s : State} {a : Nat} {b : Byte} {rest : List Input} (inbox : s.inbox = .text a b :: rest)
    (inside : a < 255) : step s = .next { s with inbox := rest, text := s.text.write a b } :=
  (step_text inbox).trans (if_pos inside)

theorem step_text_outside {s : State} {a : Nat} {b : Byte} {rest : List Input} (inbox : s.inbox = .text a b :: rest)
    (outside : 255 ≤ a) : step s = .fault .textAddress :=
  (step_text inbox).trans (if_neg (Nat.not_lt.2 outside))

theorem step_next_iff (s t : State) : step s = .next t ↔ Stepped s t := by
  constructor
  · intro h
    cases inbox : s.inbox with
    | nil => exact Host.Outcome.next.inj ((step_idle inbox).symm.trans h) ▸ .idle inbox
    | cons input rest =>
      cases input with
      | resetPulse => exact Host.Outcome.next.inj ((step_of_resetPulse inbox).symm.trans h) ▸ .reset inbox
      | text a b =>
        by_cases inside : a < 255
        · exact Host.Outcome.next.inj ((step_text_inside inbox inside).symm.trans h) ▸ .text inbox inside
        · rw [step_text_outside inbox (Nat.not_lt.1 inside)] at h
          cases h
      | word f w =>
        cases decodes : decode f w with
        | ok i => exact .runs inbox decodes ((step_decoded inbox decodes).symm.trans h)
        | bad e =>
          rw [step_undecoded inbox decodes] at h
          cases f with
          | host32 => exact Host.Outcome.next.inj h ▸ .illegal inbox decodes
          | tbyte8 => cases h
          | lcd4 => cases h
          | lcd8 => cases h
          | lcd8data => cases h
  · intro h
    cases h with
    | idle inbox => exact step_idle inbox
    | reset inbox => exact step_of_resetPulse inbox
    | text inbox inside => exact step_text_inside inbox inside
    | illegal inbox bad => exact step_undecoded inbox bad
    | runs inbox decodes ends => exact (step_decoded inbox decodes).trans ends

/-- The format a word is read in is that of its instruction (O2), so a host word is a host command. -/
theorem isHost_iff_of_decode {f : Format} {w : Word} {i : Instr} (decodes : decode f w = .ok i) :
    IsHost i ↔ f = .host32 := by
  obtain ⟨-, format, -⟩ := encodeOfDecodeIsTheWord f w i decodes
  rw [IsHost, format]

/-- Settles O41: the word is taken, and a host word latched. -/
theorem stepRunsTheDecodedInstruction : Obligations.StepRunsTheDecodedInstruction := by
  intro s f w rest i inbox decodes
  rw [step_decoded inbox decodes, taken_eq]
  by_cases host : f = .host32 <;> simp only [host, if_true, if_false]

/-- Settles O42: the host's write is one write of TEXT, or the fault. -/
theorem stepTakesTheHostsActions : Obligations.StepTakesTheHostsActions := by
  refine fun s a b rest => ⟨step_idle, fun inbox inside => ⟨_, step_text_inside inbox inside, rfl, ?_, ?_⟩,
    step_text_outside⟩
  · exact (read_write s.text a a b).trans (if_pos rfl)
  · exact fun x ne => (read_write s.text a x b).trans (if_neg ne)

/-! ## Reset (10_state R24) -/

/-- Settles O44: field by field. -/
theorem resetHoldsTheStatedValues : Obligations.ResetHoldsTheStatedValues :=
  ⟨rfl, rfl, rfl, rfl, rfl, rfl, rfl⟩

/-- A reset engine meets the invariant, if the control bits have four places: no step moves those. -/
theorem resetPulse_inv {s : State} (bits : s.straps.bits.distinct = true) : StateInv (resetPulse s) where
  closed_uninitialized _ := rfl
  geometry ready := nomatch ready
  text_wf := rfl
  text_in := rfl
  line_given_up := rfl
  stage_given_up := rfl
  stage_len := Nat.zero_le 64
  seq_idle := rfl
  resp_legal := rfl
  refused_sticks refused := absurd refused (show ¬ (0 : BitVec 2) = 3 by decide)
  bits_distinct := bits

/-- Settles O46: the state after reset is what a reset pulse makes of it. -/
theorem resetMeetsTheInvariant : Obligations.ResetMeetsTheInvariant :=
  resetPulse_inv (s := State.reset) rfl

/-! ## The sticky flag (10_state R18) -/

/-- After a host command the flag is what it was, or the command's refusal. -/
theorem exec_host_fault {i : Instr} (host : IsHost i) {s t : State} (runs : exec i s = .next t) :
    t.fault = (s.fault || t.resp.result == 3) := by
  obtain ⟨r, -, rfl⟩ | ⟨admitted, runs⟩ := exec_host_next host runs
  · exact (Bool.or_true s.fault).symm
  · obtain ⟨ok, e, ended, -⟩ := host_ended host admitted runs
    have result := result_of_ended ended
    obtain ⟨-, fault, -⟩ := ended
    rw [fault, result]
    cases ok <;> simp

/-- A wire row has no response and no refusal. -/
theorem exec_wire_status {i : Instr} (wire : ¬ IsHost i) {s t : State} (runs : exec i s = .next t) :
    t.resp = s.resp ∧ t.fault = s.fault := by
  obtain ⟨-, ran⟩ := exec_wire_next wire runs
  exact ⟨ran.keeps.resp, ran.keeps.fault⟩

theorem flag_unchanged {s t : State} {p q : Prop} (same : t.fault = s.fault) :
    (s.fault = true → t.fault = false → p) ∧ (s.fault = false → t.fault = true → q) := by
  rw [same]
  exact ⟨fun set clear => absurd (set.symm.trans clear) nofun, fun clear set => absurd (set.symm.trans clear) nofun⟩

/-- Settles O48: a refused word or command sets the flag, and reset alone clears it. -/
theorem stickyFlagRecordsEveryRefusal : Obligations.StickyFlagRecordsEveryRefusal := by
  refine ⟨fun i s t host runs => exec_host_fault host runs, fun s t h => ?_⟩
  cases (step_next_iff s t).1 h with
  | idle => exact flag_unchanged rfl
  | reset inbox => exact ⟨fun _ _ => ⟨_, inbox⟩, fun _ set => absurd set nofun⟩
  | text => exact flag_unchanged rfl
  | illegal inbox => exact ⟨fun _ clear => absurd clear nofun, fun _ _ => ⟨rfl, _, _, inbox⟩⟩
  | @runs f w rest i t inbox decodes ends =>
    have before : (taken f w rest s).fault = s.fault := by rw [taken_eq]
    by_cases host : IsHost i
    · have fault := exec_host_fault host ends
      rw [before] at fault
      refine ⟨fun set clear => ?_, fun clear set => ⟨?_, w, rest, ?_⟩⟩
      · rw [clear, set] at fault; cases fault
      · rw [clear, set, Bool.false_or] at fault; exact eq_of_beq fault.symm
      · rw [inbox, (isHost_iff_of_decode decodes).1 host]
    · obtain ⟨-, fault⟩ := exec_wire_status host ends
      exact flag_unchanged (fault.trans before)

/-! ## In Closed nothing is sent (20 R26) -/

/-- With no session an instruction appends session calls at most. -/
theorem exec_closed_events {i : Instr} {s t : State} (closed : s.session = .closed) (runs : exec i s = .next t) :
    ∃ ev, t.trace = s.trace ++ ev ∧ ∀ e ∈ ev, Event.isFrame e = false := by
  by_cases host : IsHost i
  · obtain ⟨r, -, rfl⟩ | ⟨admitted, runs⟩ := exec_host_next host runs
    · exact ⟨[], (List.append_nil _).symm, nofun⟩
    · by_cases open_dev : ∃ p a, i = .openDev p a
      · obtain ⟨p, a, rfl⟩ := open_dev
        obtain ⟨trace, -⟩ := ran_of_refusedOr (openBindsOrReportsTheFailedStep p a s) rfl admitted runs
        refine ⟨_, trace, ?_⟩
        cases boolAt s 0 <;> cases boolAt s 1 <;> simp [Event.isFrame]
      · by_cases close : i = .close
        · subst close
          rw [close_ran_closed closed runs]
          exact ⟨[], (List.append_nil _).symm, nofun⟩
        · have refused := refusalOf_closed host closed close fun p a h => open_dev ⟨p, a, h⟩
          rw [admitted] at refused
          cases refused
  · obtain ⟨opened, -⟩ := exec_wire_next host runs
    rw [closed] at opened
    cases opened

/-- Settles O49: instructions by the lemma above; the other steps append nothing. -/
theorem closedEngineWritesNothing : Obligations.ClosedEngineWritesNothing := by
  intro s t closed h
  cases (step_next_iff s t).1 h with
  | idle => exact ⟨[], (List.append_nil _).symm, nofun⟩
  | reset => exact ⟨[], (List.append_nil _).symm, nofun⟩
  | text => exact ⟨[], (List.append_nil _).symm, nofun⟩
  | illegal => exact ⟨[], (List.append_nil _).symm, nofun⟩
  | @runs f w rest i t inbox decodes ends =>
    have before : (taken f w rest s).session = s.session ∧ (taken f w rest s).trace = s.trace := by
      rw [taken_eq]; exact ⟨rfl, rfl⟩
    obtain ⟨session, trace⟩ := before
    rw [← trace]
    exact exec_closed_events (session.trans closed) ends

end Sys2Proof.Proofs.Steps

/-! # The moves between Closed, Uninitialized and Ready (42 R79), and the invariant -/

namespace Sys2Proof.Proofs.Invariant

open Sys2Proof.Laws Sys2Proof.Machine Sys2Proof.Safety
open Sys2Proof.Proofs.ProtocolEngine Sys2Proof.Proofs.DeviceSession
open Sys2Proof.Proofs.WireRows Sys2Proof.Proofs.HostCommands Sys2Proof.Proofs.Steps

/-! ## What an instruction does to session and phase -/

/-- A geometry that init accepts (10_state R13). -/
def LegalGeometry (t : State) : Prop := 1 ≤ t.width.toNat ∧ (t.height = 1 ∨ t.height = 2 ∨ t.height = 4)

/-- An instruction leaves session and phase alone, or makes one of the three moves of 42 R79. -/
inductive Moved (i : Instr) (s t : State) : Prop
  | stays (session : t.session = s.session) (phase : t.phase = s.phase)
    (geometry : t.phase = .ready → KeepsGeometry s t)
  | opens (op : ∃ p a, i = .openDev p a) (closed : s.session = .closed) (session : t.session = .opened)
    (phase : t.phase = .uninitialized) (resp : t.resp = .success)
  | readies (op : ∃ on h w, i = .init on h w) (opened : s.session = .opened) (before : s.phase = .uninitialized)
    (session : t.session = .opened) (phase : t.phase = .ready) (resp : t.resp = .success) (geometry : LegalGeometry t)
  | closes (op : i = .close) (opened : s.session = .opened) (session : t.session = .closed)
    (phase : t.phase = .uninitialized) (resp : t.resp = .success)

/-- A refused command stays. -/
theorem refused_moved (i : Instr) (r : Reason) (s : State) : Moved i s (raiseRefused r s) :=
  .stays rfl rfl fun _ => ⟨rfl, rfl⟩

/-- An instruction that is none of OPEN, INIT, CLOSE stays: it may write neither register. -/
theorem moved_of_ran {i : Instr} {s t : State} (ran : Ran i s t) (not_open : ¬ ∃ p a, i = .openDev p a)
    (not_init : ¬ ∃ on h w, i = .init on h w) (not_close : i ≠ .close) : Moved i s t :=
  .stays (ran.session.resolve_right (by simp [not_open, not_close]))
    (ran.phase.resolve_right (by simp [not_open, not_init, not_close])) fun _ => ran.geometry.resolve_right not_init

theorem open_moved {p : BitVec 8} {a : BitVec 7} {s t : State} (admitted : refusalOf s (.openDev p a) = none)
    (runs : hostRun (.openDev p a) s = .next t) : Moved (.openDev p a) s t := by
  obtain ⟨-, resp, registers, -, -, geometry, -⟩ :=
    ran_of_refusedOr (openBindsOrReportsTheFailedStep p a s) rfl admitted runs
  have closed : s.session = .closed := by
    cases session : s.session with
    | closed => rfl
    | opened => rw [refusalOf_open_opened session] at admitted; cases admitted
  cases good : boolAt s 0 && boolAt s 1
  case true =>
    rw [if_pos good] at registers
    obtain ⟨session, phase, -⟩ := registers
    rw [Bool.and_eq_true] at good
    rw [if_pos good.1, if_pos good.2] at resp
    exact .opens ⟨_, _, rfl⟩ closed session phase resp
  case false =>
    rw [if_neg (Bool.not_eq_true _ ▸ good)] at registers
    obtain ⟨session, phase, -⟩ := registers
    exact .stays session phase fun _ => geometry

/-- What the admission of INIT says. -/
theorem init_admitted {on : Bool} {h w : BitVec 8} {s : State} (admitted : refusalOf s (.init on h w) = none) :
    s.session = .opened ∧ s.phase = .uninitialized ∧
      1 ≤ w.toInt ∧ (h.toInt = 1 ∨ h.toInt = 2 ∨ h.toInt = 4) := by
  cases session : s.session <;> cases phase : s.phase <;>
    simp [refusalOf, session, phase, or_iff_not_imp_left] at admitted ⊢
  exact admitted

theorem init_moved {on : Bool} {h w : BitVec 8} {s t : State} (admitted : refusalOf s (.init on h w) = none)
    (runs : hostRun (.init on h w) s = .next t) : Moved (.init on h w) s t := by
  obtain ⟨opened, before, width_pos, height_legal⟩ := init_admitted admitted
  obtain ⟨-, ⟨resp, -⟩, phase, width, height, -, -, -, -, session, -⟩ :=
    ran_of_refusedOr (initRunsNineSendsAndCountsThem on h w s) rfl admitted runs
  cases good : initGood s
  case true =>
    rw [good] at resp phase
    have height_eq : ∀ k : BitVec 3, h.toInt = k.toNat → t.height = k := fun k hk =>
      BitVec.eq_of_toNat_eq (by omega)
    have legal : LegalGeometry t :=
      ⟨by omega, height_legal.imp (height_eq 1) (Or.imp (height_eq 2) (height_eq 4))⟩
    exact .readies ⟨_, _, _, rfl⟩ opened before (session.trans opened) phase resp legal
  case false =>
    rw [good] at phase
    have still : t.phase = .uninitialized := phase
    exact .stays session (still.trans before.symm) fun ready => by rw [still] at ready; cases ready

theorem close_moved {s t : State} (runs : hostRun .close s = .next t) : Moved .close s t := by
  obtain ⟨-, of_opened⟩ := closeReleasesAndNeverFails s
  cases opened : s.session with
  | closed =>
    rw [close_ran_closed opened runs]
    exact .stays rfl rfl fun _ => ⟨rfl, rfl⟩
  | opened =>
    obtain ⟨u, runs', -, resp, -, -, session, phase, -⟩ := of_opened opened
    obtain rfl := Host.Outcome.next.inj (runs.symm.trans runs')
    exact .closes rfl opened session phase resp

theorem exec_moved {i : Instr} {s t : State} (runs : exec i s = .next t) : Moved i s t := by
  have other := moved_of_ran (exec_ran runs)
  cases i with
  | openDev p a =>
    obtain ⟨r, -, rfl⟩ | ⟨admitted, runs⟩ := exec_host_next (i := .openDev p a) rfl runs
    · exact refused_moved _ r s
    · exact open_moved admitted runs
  | init on h w =>
    obtain ⟨r, -, rfl⟩ | ⟨admitted, runs⟩ := exec_host_next (i := .init on h w) rfl runs
    · exact refused_moved _ r s
    · exact init_moved admitted runs
  | close =>
    obtain ⟨r, -, rfl⟩ | ⟨-, runs⟩ := exec_host_next (i := .close) rfl runs
    · exact refused_moved _ r s
    · exact close_moved runs
  | _ => exact other (by simp) (by simp) (by simp)

theorem macroOf_congr {s t : State} (session : t.session = s.session) (phase : t.phase = s.phase) :
    macroOf t = macroOf s := by
  rw [macroOf, macroOf, session, phase]

/-- Settles O47: the moves of the instruction that ran, or reset; no other step writes session or phase. -/
theorem macroStateMovesOnlyAsTheRulesSay : Obligations.MacroStateMovesOnlyAsTheRulesSay := by
  intro s t h moves
  cases (step_next_iff s t).1 h with
  | idle => exact absurd rfl moves
  | reset inbox => exact .inl ⟨rfl, _, inbox⟩
  | text => exact absurd rfl moves
  | illegal => exact absurd rfl moves
  | @runs f w rest i t inbox decodes ends =>
    have before : (taken f w rest s).session = s.session ∧ (taken f w rest s).phase = s.phase := by
      rw [taken_eq]; exact ⟨rfl, rfl⟩
    obtain ⟨session₀, phase₀⟩ := before
    have host_word : IsHost i → s.inbox = .word .host32 w :: rest ∧ decode .host32 w = .ok i := fun host => by
      obtain rfl := (isHost_iff_of_decode decodes).1 host
      exact ⟨inbox, decodes⟩
    right
    cases exec_moved ends with
    | stays session phase => exact absurd (macroOf_congr (session.trans session₀) (phase.trans phase₀)) moves
    | opens op closed session phase resp =>
      obtain ⟨word, decoded⟩ := host_word (by obtain ⟨p, a, rfl⟩ := op; rfl)
      refine ⟨w, rest, i, word, decoded, resp, .inl ⟨?_, ?_, op⟩⟩
      · exact (macroOf_closed_iff s).2 (session₀.symm.trans closed)
      · exact (macroOf_uninitialized_iff t).2 ⟨session, phase⟩
    | readies op opened before session phase resp =>
      obtain ⟨word, decoded⟩ := host_word (by obtain ⟨on, h, w, rfl⟩ := op; rfl)
      refine ⟨w, rest, i, word, decoded, resp, .inr (.inl ⟨?_, ?_, op⟩)⟩
      · exact (macroOf_uninitialized_iff s).2 ⟨session₀.symm.trans opened, phase₀.symm.trans before⟩
      · exact (macroOf_ready_iff t).2 ⟨session, phase⟩
    | closes op opened session phase resp =>
      obtain ⟨word, decoded⟩ := host_word (by rw [op]; rfl)
      refine ⟨w, rest, i, word, decoded, resp, .inr (.inr ⟨?_, ?_, op⟩)⟩
      · rw [ne_eq, macroOf_closed_iff, ← session₀, opened]; nofun
      · exact (macroOf_closed_iff t).2 session

/-! ## The buffers -/

/-- What every operation does to the buffers: TEXT is as it was, and no byte of LINE or STAGE is left with a value. -/
structure Tidy (s t : State) : Prop where
  text : t.text = s.text
  line : s.line = ⟨[]⟩ → t.line = ⟨[]⟩
  stage : s.stage = ⟨[]⟩ → t.stage = ⟨[]⟩

theorem Tidy.trans {s t u : State} (h : Tidy s t) (k : Tidy t u) : Tidy s u :=
  ⟨k.text.trans h.text, k.line ∘ h.line, k.stage ∘ h.stage⟩

/-- An operation that names none of the three buffers. -/
theorem tidy_of_eq {s t : State} (text : t.text = s.text) (line : t.line = s.line) (stage : t.stage = s.stage) :
    Tidy s t := ⟨text, line.trans, stage.trans⟩

theorem tidy_of_transport {s t : State} (keeps : OnlyTransport s t) (stage : s.stage = ⟨[]⟩ → t.stage = ⟨[]⟩) :
    Tidy s t := ⟨keeps.text, keeps.line.trans, stage⟩

theorem send_tidy (mode : Mode) (bl : Bool) (p : List Byte) (n : Nat) (s : State) : Tidy s (send mode bl p n s).2 :=
  tidy_of_transport (send_keeps mode bl p n s) (send_empties mode bl p n)

theorem emit_tidy (e : Event) (s : State) : Tidy s (emit e s) := tidy_of_eq rfl rfl rfl

theorem beginOp_tidy (op : Op) (s : State) : Tidy s (beginOp op s) := tidy_of_eq rfl rfl rfl

theorem setDisplay_tidy (bl d c k : Bool) (s : State) : Tidy s (setDisplay bl d c k s) := tidy_of_eq rfl rfl rfl

theorem setGeometry_tidy (h w : BitVec 8) (s : State) : Tidy s (setGeometry h w s) := tidy_of_eq rfl rfl rfl

theorem beginSession_tidy (p : BitVec 8) (a : BitVec 7) (s : State) : Tidy s (beginSession p a s) :=
  tidy_of_eq rfl rfl rfl

theorem endSession_tidy (s : State) : Tidy s (endSession s) := tidy_of_eq rfl rfl rfl

theorem endSuccess_tidy (s : State) : Tidy s (endSuccess s) := tidy_of_eq rfl rfl rfl

theorem endFailure_tidy (e : Err) (s : State) : Tidy s (endFailure e s) := tidy_of_eq rfl rfl rfl

theorem endWith_tidy (ok : Bool) (e : Err) (s : State) : Tidy s (endWith ok e s) := by
  cases ok
  · exact endFailure_tidy e s
  · exact endSuccess_tidy s

theorem nextBool_tidy (s : State) : Tidy s (nextBool s).2 := by
  obtain ⟨stage, -⟩ := nextBool_stage s
  exact tidy_of_eq (nextBool_keeps s).text (nextBool_keeps s).line stage

theorem opened_tidy (p : BitVec 8) (s : State) : Tidy s (opened p s) :=
  ((beginOp_tidy .openDev s).trans (emit_tidy (.chanOpen p) _)).trans (nextBool_tidy _)

theorem bound_tidy (p : BitVec 8) (a : BitVec 7) (s : State) : Tidy s (bound p a s) :=
  ((opened_tidy p s).trans (emit_tidy (.bind a) _)).trans (nextBool_tidy _)

theorem runOpen_tidy (p : BitVec 8) (a : BitVec 7) (s : State) : Tidy s (runOpen p a s) := by
  rw [runOpen_eq]
  split
  · split
    · exact ((bound_tidy p a s).trans (beginSession_tidy p a _)).trans (endSuccess_tidy _)
    · exact ((bound_tidy p a s).trans (emit_tidy .release _)).trans (endFailure_tidy _ _)
  · exact (opened_tidy p s).trans (endFailure_tidy _ _)

theorem runSteps_tidy (on : Bool) (sts : List InitStep) (s : State) : Tidy s (runSteps on sts s).2 := by
  induction sts generalizing s with
  | nil => exact tidy_of_eq rfl rfl rfl
  | cons st rest ih => exact (send_tidy ..).trans (ih _)

theorem runInit_tidy (on : Bool) (h w : BitVec 8) (s : State) : Tidy s (runInit on h w s) := by
  have sent : Tidy s (initSent on h w s) :=
    ((setGeometry_tidy h w s).trans (beginOp_tidy .init _)).trans (runSteps_tidy on initTable _)
  have phase : ∀ (u : State) (p : Phase), Tidy u { u with phase := p } := fun _ _ => tidy_of_eq rfl rfl rfl
  rw [runInit_eq]
  exact ((sent.trans (setDisplay_tidy on true false false _)).trans (phase _ _)).trans (endWith_tidy ..)

/-- A command of one frame, from the state in which it sends. -/
theorem endWith_send_tidy (bl : Bool) (b : Byte) (n : Nat) {s u : State} (begins : Tidy s u) :
    Tidy s (endWith (send .cmd bl [b] n u).1 .transportWrite (send .cmd bl [b] n u).2) :=
  (begins.trans (send_tidy .cmd bl [b] n u)).trans (endWith_tidy ..)

theorem runGoto_tidy (y x : BitVec 8) (s : State) : Tidy s (runGoto y x s) :=
  endWith_send_tidy s.bl (targetByte s.width.toNat (sext8 x) (sext8 y)) 0 (beginOp_tidy .goto s)

theorem runClearAll_tidy (s : State) : Tidy s (runClearAll s) :=
  endWith_send_tidy s.bl 0x01#8 2000 (beginOp_tidy .clearAll s)

/-- The state in which a frame with a new backlight is sent. -/
theorem beginOp_bl_tidy (op : Op) (bl : Bool) (s : State) : Tidy s { beginOp op s with bl := bl } :=
  tidy_of_eq rfl rfl rfl

theorem runBacklight_tidy (on : Bool) (s : State) : Tidy s (runBacklight on s) :=
  endWith_send_tidy on 0x00#8 0 (beginOp_bl_tidy .backlight on s)

theorem runControl_tidy (bl d c k : Bool) (s : State) : Tidy s (runControl bl d c k s) :=
  endWith_send_tidy bl (controlByte d c k) 0 ((beginOp_tidy .control s).trans (setDisplay_tidy bl d c k _))

theorem runClose_tidy (s : State) : Tidy s (runClose s) :=
  ((((beginOp_bl_tidy .close false s).trans (send_tidy .cmd false [0x00#8] 0 _)).trans (emit_tidy .release _)).trans
    (endSession_tidy _)).trans (endSuccess_tidy _)

/-- A command that sends LINE gives its contents up at its end. -/
theorem sendLine_tidy (x y : Int) (bytes : List Byte) (s : State) : Tidy s (sendLine x y bytes s) := by
  have frames : Tidy (fillLine bytes s) (lineFrames x y bytes s) := by
    unfold lineFrames
    split
    · exact (send_tidy ..).trans (send_tidy ..)
    · exact send_tidy ..
  obtain ⟨text, -, stage⟩ := frames.trans (endWith_tidy (frameGood s 0 0 4 && frameGood s 4 1 (4 * bytes.length))
    .transportWrite (lineFrames x y bytes s))
  rw [sendLine_eq]
  exact ⟨text, fun _ => rfl, stage⟩

theorem runClearRow_tidy (line : BitVec 8) (s : State) : Tidy s (runClearRow line s) :=
  (beginOp_tidy .clearRow s).trans (sendLine_tidy 0 (clearRowOf line s) _ _)

theorem runPrint_tidy {len y x : BitVec 8} {s t : State} (runs : runPrint len y x s = .next t) : Tidy s t := by
  unfold runPrint at runs
  split at runs
  · cases runs
  · next bytes _ =>
    rw [← Host.Outcome.next.inj runs]
    exact (beginOp_tidy .print s).trans (sendLine_tidy _ _ bytes _)

theorem tidy_of_next {s t u : State} (tidy : Tidy s u)
    (ends : (.next u : Host.Outcome State Fault Refusal) = .next t) : Tidy s t :=
  Host.Outcome.next.inj ends ▸ tidy

theorem host_tidy {i : Instr} (host : IsHost i) {s t : State} (runs : hostRun i s = .next t) : Tidy s t := by
  cases i, host using hostCases with
  | openDev p a => exact tidy_of_next (runOpen_tidy p a s) runs
  | init on h w => exact tidy_of_next (runInit_tidy on h w s) runs
  | goto y x => exact tidy_of_next (runGoto_tidy y x s) runs
  | print len y x => exact runPrint_tidy runs
  | clearAll line => exact tidy_of_next (runClearAll_tidy s) runs
  | clearRow line => exact tidy_of_next (runClearRow_tidy line s) runs
  | backlight on => exact tidy_of_next (runBacklight_tidy on s) runs
  | control bl d c k => exact tidy_of_next (runControl_tidy bl d c k s) runs
  | close =>
    cases session : s.session with
    | closed => rw [close_ran_closed session runs]; exact endSuccess_tidy s
    | opened => rw [close_ran_opened session runs]; exact runClose_tidy s

theorem exec_tidy {i : Instr} {s t : State} (runs : exec i s = .next t) : Tidy s t := by
  by_cases host : IsHost i
  · obtain ⟨r, -, rfl⟩ | ⟨-, runs⟩ := exec_host_next host runs
    · exact tidy_of_eq rfl rfl rfl
    · exact host_tidy host runs
  · obtain ⟨-, ran⟩ := exec_wire_next host runs
    exact tidy_of_transport ran.keeps ran.empties

/-! ## The response and the sequencer -/

/-- The response is one the engine can write, and a refusal shows in the sticky flag (10_state R17, R18). -/
def StatusInv (t : State) : Prop := respLegal t.resp = true ∧ (t.resp.result = 3 → t.fault = true)

theorem refused_status (r : Reason) (s : State) : StatusInv (raiseRefused r s) := by
  refine ⟨?_, fun _ => rfl⟩
  cases r <;> rfl

theorem ended_status {ok : Bool} {e : Err} {s t : State} (ended : Ended ok e s t) : StatusInv t := by
  have result := result_of_ended ended
  obtain ⟨resp, -⟩ := ended
  refine ⟨?_, fun refused => ?_⟩
  · rw [resp]; cases ok <;> cases e <;> rfl
  · rw [result] at refused; cases ok <;> exact absurd refused (by decide)

theorem exec_status {i : Instr} {s t : State} (idle : s.seq = .idle) (status : StatusInv s) (runs : exec i s = .next t) :
    t.seq = .idle ∧ StatusInv t := by
  by_cases host : IsHost i
  · obtain ⟨r, -, rfl⟩ | ⟨admitted, runs⟩ := exec_host_next host runs
    · exact ⟨idle, refused_status r s⟩
    · obtain ⟨ok, e, ended, -⟩ := host_ended host admitted runs
      have status := ended_status ended
      obtain ⟨-, -, seq⟩ := ended
      exact ⟨seq, status⟩
  · obtain ⟨resp, fault⟩ := exec_wire_status host runs
    obtain ⟨-, ran⟩ := exec_wire_next host runs
    rw [StatusInv, resp, fault]
    exact ⟨ran.idle idle, status⟩

/-! ## The invariant -/

/-- The staged length, whether the instruction staged a frame or not. -/
theorem stageLen_le_of_ran {i : Instr} {s t : State} (ran : Ran i s t) (le : s.stageLen.toNat ≤ 64) :
    t.stageLen.toNat ≤ 64 := by
  obtain ⟨kept, -⟩ | ⟨-, staged⟩ := ran.stage
  · rw [kept]; exact le
  · exact staged

/-- A closed engine is Uninitialized, and a Ready engine has a legal geometry (10_state R13, R23). -/
def GeometryInv (t : State) : Prop :=
  (t.session = .closed → t.phase = .uninitialized) ∧ (t.phase = .ready → LegalGeometry t)

theorem Moved.geometryInv {i : Instr} {s t : State} (moved : Moved i s t) (inv : GeometryInv s) : GeometryInv t := by
  obtain ⟨closed, legal⟩ := inv
  cases moved with
  | stays session phase geometry =>
    refine ⟨fun h => phase.trans (closed (session.symm.trans h)), fun ready => ?_⟩
    obtain ⟨width, height⟩ := geometry ready
    rw [LegalGeometry, width, height]
    exact legal (phase.symm.trans ready)
  | opens op was_closed session phase =>
    exact ⟨fun _ => phase, fun ready => absurd (phase.symm.trans ready) nofun⟩
  | readies op opened before session phase resp geometry =>
    exact ⟨fun h => absurd (session.symm.trans h) nofun, fun _ => geometry⟩
  | closes op opened session phase =>
    exact ⟨fun _ => phase, fun ready => absurd (phase.symm.trans ready) nofun⟩

/-- Every instruction keeps the invariant. -/
theorem exec_keeps_inv {i : Instr} {s t : State} (inv : StateInv s) (runs : exec i s = .next t) : StateInv t := by
  have ran := exec_ran runs
  obtain ⟨-, straps, -⟩ := ran.host
  obtain ⟨text, line, stage⟩ := exec_tidy runs
  obtain ⟨seq, resp, sticks⟩ := exec_status inv.seq_idle ⟨inv.resp_legal, inv.refused_sticks⟩ runs
  obtain ⟨closed, geometry⟩ := (exec_moved runs).geometryInv ⟨inv.closed_uninitialized, inv.geometry⟩
  exact {
    closed_uninitialized := closed
    geometry
    text_wf := text ▸ inv.text_wf
    text_in := text ▸ inv.text_in
    line_given_up := line inv.line_given_up
    stage_given_up := stage inv.stage_given_up
    stage_len := stageLen_le_of_ran ran inv.stage_len
    seq_idle := seq
    resp_legal := resp
    refused_sticks := sticks
    bits_distinct := straps ▸ inv.bits_distinct }

/-- Taking a word from the queue and latching it keeps the invariant. -/
theorem taken_inv {s : State} (inv : StateInv s) (f : Format) (w : Word) (rest : List Input) :
    StateInv (taken f w rest s) := by
  rw [taken_eq]
  exact { inv with }

/-- The host's write of TEXT keeps the invariant (10_state R21). -/
theorem text_inv {s : State} (inv : StateInv s) {a : Nat} (inside : a < 255) (b : Byte) (rest : List Input) :
    StateInv { s with inbox := rest, text := s.text.write a b } :=
  { inv with
    text_wf := write_wf s.text a b inv.text_wf
    text_in := within_insert 255 a b s.text.cells inside inv.text_in }

theorem refused_inv {s : State} (inv : StateInv s) (r : Reason) : StateInv (raiseRefused r s) := by
  obtain ⟨resp, sticks⟩ := refused_status r s
  exact { inv with resp_legal := resp, refused_sticks := sticks }

/-- Settles O45: the ways a step can go, one by one. -/
theorem stepKeepsTheInvariant : Obligations.StepKeepsTheInvariant := by
  intro s t inv h
  cases (step_next_iff s t).1 h with
  | idle => exact inv
  | reset => exact resetPulse_inv inv.bits_distinct
  | text inbox inside => exact text_inv inv inside _ _
  | illegal => exact refused_inv (taken_inv inv _ _ _) _
  | runs inbox decodes ends => exact exec_keeps_inv (taken_inv inv _ _ _) ends

end Sys2Proof.Proofs.Invariant

/-! # Two runs of a step: from other coming answers, and from another trace -/

namespace Sys2Proof.Proofs.TwoRuns

open Sys2Proof.Laws Sys2Proof.Machine Sys2Proof.Safety
open Sys2Proof.Proofs.ProtocolEngine Sys2Proof.Proofs.DeviceSession Sys2Proof.Proofs.ResetAndHazards
open Sys2Proof.Proofs.WireRows Sys2Proof.Proofs.HostCommands Sys2Proof.Proofs.Steps

/-! ## When an instruction has a next state (20 R27) -/

/-- An admitted command comes to a next state unless it is a PRINT of a byte that has no value. -/
theorem hostRun_next_iff {i : Instr} (host : IsHost i) (s : State) :
    (∃ t, hostRun i s = .next t) ↔
      ∀ len y x, i = .print len y x → s.text.readFrom 0 (printLen len s) ≠ none := by
  cases i, host using hostCases with
  | print len y x =>
    have run : hostRun (.print len y x) s = runPrint len y x s := rfl
    rw [run, runPrint]
    cases reads : s.text.readFrom 0 (printLen len s) with
    | none => exact ⟨fun ⟨t, h⟩ => absurd h nofun, fun h => absurd reads (h len y x rfl)⟩
    | some bytes =>
      refine ⟨fun _ len' y' x' h => ?_, fun _ => ⟨_, rfl⟩⟩
      obtain ⟨rfl, -, -⟩ := Instr.print.inj h
      rw [reads]; nofun
  | close =>
    refine ⟨fun _ => nofun, fun _ => ?_⟩
    cases session : s.session with
    | closed => exact ⟨_, execClose_closed session⟩
    | opened => exact ⟨_, execClose_opened session⟩
  | openDev p a => exact ⟨fun _ => nofun, fun _ => ⟨_, rfl⟩⟩
  | init on h w => exact ⟨fun _ => nofun, fun _ => ⟨_, rfl⟩⟩
  | goto y x => exact ⟨fun _ => nofun, fun _ => ⟨_, rfl⟩⟩
  | clearAll line => exact ⟨fun _ => nofun, fun _ => ⟨_, rfl⟩⟩
  | clearRow line => exact ⟨fun _ => nofun, fun _ => ⟨_, rfl⟩⟩
  | backlight on => exact ⟨fun _ => nofun, fun _ => ⟨_, rfl⟩⟩
  | control bl d c k => exact ⟨fun _ => nofun, fun _ => ⟨_, rfl⟩⟩

/-- What decides whether an instruction has a next state: the session for a wire row, the bytes read for PRINT. -/
def HasNext (i : Instr) (s : State) : Prop :=
  (IsHost i ∨ s.session = .opened) ∧
    (refusalOf s i = none → ∀ len y x, i = .print len y x → s.text.readFrom 0 (printLen len s) ≠ none)

theorem exec_next_iff (i : Instr) (s : State) : (∃ t, exec i s = .next t) ↔ HasNext i s := by
  by_cases host : IsHost i
  · rw [HasNext, and_iff_right (Or.inl host)]
    cases admission : refusalOf s i with
    | some r => exact ⟨fun _ => nofun, fun _ => ⟨_, exec_refused host admission⟩⟩
    | none => rw [exec_admitted host admission, hostRun_next_iff host]; exact ⟨fun h _ => h, fun h => h rfl⟩
  · have not_print : ∀ len y x, i ≠ .print len y x := by rintro len y x rfl; exact host rfl
    constructor
    · rintro ⟨t, runs⟩
      exact ⟨.inr (exec_wire_next host runs).1, fun _ len y x h => absurd h (not_print len y x)⟩
    · rintro ⟨session, -⟩
      exact ⟨_, exec_wire_opened host (session.resolve_left host)⟩

/-- The state with other coming answers. -/
def reanswer (bs : List Bool) (cs : List Nat) (k : Nat) (s : State) : State :=
  { s with boolAnswers := bs, codeAnswers := cs, freeIdx := k }

theorem refusalOf_reanswer (bs : List Bool) (cs : List Nat) (k : Nat) (s : State) (i : Instr) :
    refusalOf (reanswer bs cs k s) i = refusalOf s i := rfl

theorem hasNext_reanswer {i : Instr} {s : State} (h : HasNext i s) (bs : List Bool) (cs : List Nat) (k : Nat) :
    HasNext i (reanswer bs cs k s) := by
  rw [HasNext, refusalOf_reanswer]
  exact h

theorem taken_reanswer (f : Format) (w : Word) (rest : List Input) (bs : List Bool) (cs : List Nat) (k : Nat) (s : State) :
    taken f w rest (reanswer bs cs k s) = reanswer bs cs k (taken f w rest s) := by
  cases f <;> rfl

/-- A step that has a next state has one with any other coming answers. -/
theorem stepped_reanswer {s t : State} (h : Stepped s t) (bs : List Bool) (cs : List Nat) (k : Nat) :
    ∃ t', Stepped (reanswer bs cs k s) t' := by
  cases h with
  | idle inbox => exact ⟨_, .idle inbox⟩
  | reset inbox => exact ⟨_, .reset inbox⟩
  | text inbox inside => exact ⟨_, .text inbox inside⟩
  | illegal inbox bad => exact ⟨_, .illegal inbox bad⟩
  | runs inbox decodes ends =>
    have next := hasNext_reanswer ((exec_next_iff _ _).1 ⟨_, ends⟩) bs cs k
    rw [← taken_reanswer, ← exec_next_iff] at next
    obtain ⟨t', ends'⟩ := next
    exact ⟨t', .runs inbox decodes ends'⟩

/-- Settles O51: either engine is the other with other answers to come. -/
theorem nextStepNeverDependsOnTheAnswers : Obligations.NextStepNeverDependsOnTheAnswers := by
  intro s bs cs k
  simp only [step_next_iff]
  refine ⟨fun ⟨t, h⟩ => stepped_reanswer h bs cs k, fun ⟨t, h⟩ => ?_⟩
  exact stepped_reanswer h s.boolAnswers s.codeAnswers s.freeIdx

/-! ## Another trace (00_scope R8) -/

/-- The state with another trace. -/
def retrace (old : List Event) (s : State) : State := { s with trace := old }

/-- From any trace, `f` comes to the same state and appends the same events. -/
def Appends (f : State → State) (s : State) : Prop :=
  ∃ ev, ∀ old, f (retrace old s) = retrace (old ++ ev) (f s)

/-- The trace is no part of what `r` reads before `f` runs. -/
theorem appends_of_read {α : Type} {f : α → State → State} {r : State → α} {s : State}
    (same : ∀ old, r (retrace old s) = r s) (h : Appends (f (r s)) s) : Appends (fun s => f (r s) s) s := by
  obtain ⟨ev, h⟩ := h
  exact ⟨ev, fun old => by dsimp only; rw [same, h]⟩

/-- A state update that is silent, before `f` runs. -/
theorem appends_comp {f g : State → State} {s : State} (silent : ∀ old, g (retrace old s) = retrace old (g s))
    (h : Appends f (g s)) : Appends (fun s => f (g s)) s := by
  obtain ⟨ev, h⟩ := h
  exact ⟨ev, fun old => by dsimp only; rw [silent, h]⟩

/-! ### The channel and the two senders -/

theorem emit_retrace (e : Event) (old : List Event) (s : State) :
    emit e (retrace old s) = retrace (old ++ [e]) (emit e s) := rfl

theorem nextBool_retrace (old : List Event) (s : State) :
    nextBool (retrace old s) = ((nextBool s).1, retrace old (nextBool s).2) := by
  cases answers : s.boolAnswers <;> simp [nextBool, retrace, answers]

theorem nextCode_retrace (old : List Event) (s : State) :
    nextCode (retrace old s) = ((nextCode s).1, retrace old (nextCode s).2) := by
  cases answers : s.codeAnswers <;> simp [nextCode, retrace, answers]

theorem chanWrite_retrace (b : Byte) (old : List Event) (s : State) :
    chanWrite b (retrace old s) = ((chanWrite b s).1, retrace (old ++ [.write b]) (chanWrite b s).2) := by
  rw [chanWrite, emit_retrace, nextBool_retrace]; rfl

theorem chanBlockWrite_retrace (bs : List Byte) (old : List Event) (s : State) :
    chanBlockWrite bs (retrace old s)
      = ((chanBlockWrite bs s).1, retrace (old ++ [.blockWrite bs]) (chanBlockWrite bs s).2) := by
  rw [chanBlockWrite, emit_retrace, nextCode_retrace]; rfl

theorem rawWrites_retrace (sls : List Slot) (old : List Event) (s : State) :
    rawWrites sls (retrace old s)
      = ((rawWrites sls s).1, retrace (old ++ sls.map fun sl => .write sl.val) (rawWrites sls s).2) := by
  induction sls generalizing old s with
  | nil => simp [rawWrites]
  | cons sl rest ih =>
    have moved : moveTo sl (retrace old s) = retrace old (moveTo sl s) := rfl
    simp only [rawWrites, moved, chanWrite_retrace, ih, List.map_cons, List.append_assoc, List.singleton_append]

theorem blockWrites_retrace (bs : List Byte) (old : List Event) (s : State) :
    blockWrites bs (retrace old s) = ((blockWrites bs s).1, retrace (old ++ chunkEvents bs) (blockWrites bs s).2) := by
  simp only [blockWrites, chunkEvents, Config.chunkMax]
  split
  · simp only [chanBlockWrite_retrace]
  · simp only [chanBlockWrite_retrace, List.append_assoc, List.singleton_append]

theorem blockTransmit_retrace (sls : List Slot) (old : List Event) (s : State) :
    blockTransmit sls (retrace old s)
      = ((blockTransmit sls s).1, retrace (old ++ chunkEvents (sls.map Slot.val)) (blockTransmit sls s).2) := by
  have staged : stageFrame sls (retrace old s) = retrace old (stageFrame sls s) := rfl
  simp only [blockTransmit_eq, staged, blockWrites_retrace]
  rfl

theorem rawDelay_retrace (n : Nat) (old : List Event) (s : State) :
    rawDelay n (retrace old s)
      = retrace (old ++ [.delay (if n = 0 then s.straps.tDefaultUs else n)]) (rawDelay n s) := by
  by_cases h : n = 0 <;> simp only [rawDelay, h, ne_eq, not_true_eq_false, not_false_eq_true, if_true, if_false] <;> rfl

theorem transmit_retrace (sls : List Slot) (old : List Event) (s : State) :
    transmit sls (retrace old s)
      = ((transmit sls s).1, retrace (old ++ byteEvents s.straps (sls.map Slot.val)) (transmit sls s).2) := by
  have same : (retrace old s).straps = s.straps := rfl
  cases h : s.straps.transport
  · simp only [transmit, same, h, rawTransmit, rawWrites_retrace, byteEvents, List.map_map]
    rfl
  · simp only [transmit, same, h, blockTransmit_retrace, byteEvents]

/-- `send` does the same from any trace, and appends the frame's events to it. -/
theorem send_retrace (mode : Mode) (bl : Bool) (p : List Byte) (n : Nat) (old : List Event) (s : State) :
    send mode bl p n (retrace old s)
      = ((send mode bl p n s).1, retrace (old ++ frameEvents s.straps mode bl p n) (send mode bl p n s).2) := by
  have same : (retrace old s).straps = s.straps := rfl
  have sent := transmit_retrace (frameSlots s.straps.bits mode bl p) old s
  have kept := (transmit_keeps (frameSlots s.straps.bits mode bl p) s).straps
  rw [frameSlots_val] at sent
  cases h : s.straps.transport
  · simp only [transmit, same, h] at sent kept
    simp only [send, same, h, rawSend, sent, rawDelay_retrace, kept, frameEvents, settleEvents, List.append_assoc]
    rfl
  · simp only [transmit, same, h] at sent kept
    simp only [send, same, h, blockSend, sent, blockDelay, frameEvents, settleEvents]
    simp only [delay, emit, retrace, frameDone, kept, List.append_assoc, List.cons_append, List.nil_append]

/-! ### The wire rows -/

theorem appends_send (mode : Mode) (bl : Bool) (p : List Byte) (n : Nat) (s : State) :
    Appends (fun s => (send mode bl p n s).2) s :=
  ⟨_, fun old => congrArg Prod.snd (send_retrace mode bl p n old s)⟩

theorem appends_wireFrame (mode : Mode) (b : Byte) (bl : Bool) (n : Nat) (s : State) :
    Appends (wireFrame mode b bl n) s := by
  have same : ∀ old, initStepFor mode b (retrace old s) = initStepFor mode b s := fun _ => rfl
  cases step : initStepFor mode b s with
  | none =>
    obtain ⟨ev, sent⟩ := appends_send mode bl [b] n s
    refine ⟨ev, fun old => ?_⟩
    rw [wireFrame_of_none ((same old).trans step), wireFrame_of_none step]
    exact sent old
  | some st =>
    obtain ⟨ev, sent⟩ := appends_send mode (st.bl (s.cmd.getLsbD 16)) [b] st.settle s
    refine ⟨ev, fun old => ?_⟩
    rw [wireFrame_of_some ((same old).trans step), wireFrame_of_some step]
    exact sent old

theorem appends_tbyteSent (rs en bl : Bool) (n : BitVec 4) (s : State) : Appends (tbyteSent rs en bl n) s := by
  refine ⟨byteEvents s.straps [(loneSlot rs en bl n s).val], fun old => ?_⟩
  have same : loneSlot rs en bl n (retrace old s) = loneSlot rs en bl n s := rfl
  rw [tbyteSent, same, transmit_retrace]
  rfl

/-- A row that sends with the backlight that stands. -/
theorem appends_wireFrame_bl (mode : Mode) (b : Byte) (n : Nat) (s : State) :
    Appends (fun s => wireFrame mode b s.bl n s) s :=
  appends_of_read (f := fun bl => wireFrame mode b bl n) (r := State.bl) (fun _ => rfl) (appends_wireFrame mode b s.bl n s)

theorem appends_wireRun {i : Instr} (wire : ¬ IsHost i) (s : State) : Appends (wireRun i) s := by
  cases i, wire using wireCases with
  | tbyte rs en bl n => exact appends_tbyteSent rs en bl n s
  | lcdWake =>
    exact appends_of_read (f := fun n s => wireFrame .startup 0x30 false n (nextFree s))
      (r := fun s => wakeSettle (Config.freeWakeAttempt s.freeIdx)) (fun _ => rfl)
      (appends_comp (fun _ => rfl) (appends_wireFrame ..))
  | lcdMode4 => exact appends_wireFrame ..
  | lcdFunctionSet => exact appends_wireFrame ..
  | lcdClearDisplay => exact appends_wireFrame_bl ..
  | lcdEntryMode => exact appends_wireFrame ..
  | lcdDisplayControl d c k => exact appends_wireFrame_bl ..
  | lcdBacklightCarrier => exact appends_wireFrame_bl ..
  | lcdSetAddress offset => exact appends_wireFrame_bl ..
  | lcdData code => exact appends_wireFrame_bl ..

/-! ### The host commands -/

theorem endWith_retrace (ok : Bool) (e : Err) (old : List Event) (s : State) :
    endWith ok e (retrace old s) = retrace old (endWith ok e s) := by
  cases ok <;> rfl

/-- A command of one frame, from the state in which it sends. -/
theorem endWith_send_retrace (bl : Bool) (b : Byte) (n : Nat) (old : List Event) (u : State) :
    endWith (send .cmd bl [b] n (retrace old u)).1 .transportWrite (send .cmd bl [b] n (retrace old u)).2
      = retrace (old ++ frameEvents u.straps .cmd bl [b] n)
          (endWith (send .cmd bl [b] n u).1 .transportWrite (send .cmd bl [b] n u).2) := by
  rw [send_retrace, endWith_retrace]

theorem appends_runGoto (y x : BitVec 8) (s : State) : Appends (runGoto y x) s :=
  ⟨_, fun old => endWith_send_retrace s.bl (targetByte s.width.toNat (sext8 x) (sext8 y)) 0 old (beginOp .goto s)⟩

theorem appends_runClearAll (s : State) : Appends runClearAll s :=
  ⟨_, fun old => endWith_send_retrace s.bl 0x01#8 2000 old (beginOp .clearAll s)⟩

theorem appends_runBacklight (on : Bool) (s : State) : Appends (runBacklight on) s :=
  ⟨_, fun old => endWith_send_retrace on 0x00#8 0 old { beginOp .backlight s with bl := on }⟩

theorem appends_runControl (bl d c k : Bool) (s : State) : Appends (runControl bl d c k) s :=
  ⟨_, fun old => endWith_send_retrace bl (controlByte d c k) 0 old (setDisplay bl d c k (beginOp .control s))⟩

theorem positioned_retrace (x y : Int) (bytes : List Byte) (old : List Event) (s : State) :
    positioned x y bytes (retrace old s)
      = retrace (old ++ frameEvents s.straps .cmd s.bl [targetByte s.width.toNat x y] 0) (positioned x y bytes s) :=
  congrArg Prod.snd (send_retrace .cmd s.bl [targetByte s.width.toNat x y] 0 old (fillLine bytes s))

theorem appends_lineFrames (x y : Int) (bytes : List Byte) (s : State) : Appends (lineFrames x y bytes) s := by
  have good_same : ∀ old, frameGood (retrace old s) 0 0 4 = frameGood s 0 0 4 := fun _ => rfl
  have bl_same : ∀ old, (retrace old s).bl = s.bl := fun _ => rfl
  cases good : frameGood s 0 0 4
  · refine ⟨frameEvents s.straps .cmd s.bl [targetByte s.width.toNat x y] 0, fun old => ?_⟩
    simp only [lineFrames, good_same, good, Bool.false_eq_true, if_false, positioned_retrace]
  · refine ⟨frameEvents s.straps .cmd s.bl [targetByte s.width.toNat x y] 0
      ++ frameEvents (positioned x y bytes s).straps .data s.bl bytes 0, fun old => ?_⟩
    simp only [lineFrames, good_same, bl_same, good, if_true, positioned_retrace, send_retrace, List.append_assoc]

theorem appends_sendLine (x y : Int) (bytes : List Byte) (s : State) : Appends (sendLine x y bytes) s := by
  obtain ⟨ev, frames⟩ := appends_lineFrames x y bytes s
  refine ⟨ev, fun old => ?_⟩
  have same : ∀ w c n, frameGood (retrace old s) w c n = frameGood s w c n := fun _ _ _ => rfl
  simp only [sendLine_eq, same, frames, endWith_retrace]
  rfl

theorem appends_runClearRow (line : BitVec 8) (s : State) : Appends (runClearRow line) s := by
  obtain ⟨ev, sent⟩ := appends_sendLine 0 (clearRowOf line s) (List.replicate s.width.toNat 0x20#8) (beginOp .clearRow s)
  refine ⟨ev, fun old => ?_⟩
  have row : clearRowOf line (retrace old s) = clearRowOf line s := rfl
  have width : (retrace old s).width = s.width := rfl
  have begins : beginOp .clearRow (retrace old s) = retrace old (beginOp .clearRow s) := rfl
  rw [runClearRow, row, width, begins, sent, runClearRow]

theorem runSteps_retrace (on : Bool) (sts : List InitStep) (old : List Event) (s : State) :
    runSteps on sts (retrace old s)
      = ((runSteps on sts s).1, retrace (old ++ stepEvents s.straps on sts) (runSteps on sts s).2) := by
  induction sts generalizing old s with
  | nil => simp [runSteps, stepEvents]
  | cons st rest ih =>
    have kept := (send_keeps st.mode (st.bl on) [st.byte] st.settle s).straps
    simp only [runSteps, send_retrace, ih, kept, stepEvents, List.flatMap_cons, List.append_assoc]

theorem appends_runInit (on : Bool) (h w : BitVec 8) (s : State) : Appends (runInit on h w) s := by
  refine ⟨stepEvents s.straps on initTable, fun old => ?_⟩
  have sent : initSent on h w (retrace old s) = retrace (old ++ stepEvents s.straps on initTable) (initSent on h w s) :=
    congrArg Prod.snd (runSteps_retrace on initTable old (beginOp .init (setGeometry h w s)))
  have same : initGood (retrace old s) = initGood s := rfl
  rw [runInit_eq, runInit_eq, sent, same, ← endWith_retrace]
  rfl

theorem opened_retrace (p : BitVec 8) (old : List Event) (s : State) :
    opened p (retrace old s) = retrace (old ++ [Event.chanOpen p]) (opened p s) := by
  have begins : beginOp .openDev (retrace old s) = retrace old (beginOp .openDev s) := rfl
  rw [opened, chanOpen, begins, emit_retrace, nextBool_retrace]
  rfl

theorem bound_retrace (p : BitVec 8) (a : BitVec 7) (old : List Event) (s : State) :
    bound p a (retrace old s) = retrace (old ++ [Event.chanOpen p] ++ [Event.bind a]) (bound p a s) := by
  rw [bound, opened_retrace, chanBind, emit_retrace, nextBool_retrace]
  rfl

theorem chanRelease_retrace (old : List Event) (s : State) :
    chanRelease (retrace old s) = retrace (old ++ [.release]) (chanRelease s) := rfl

theorem endSuccess_retrace (old : List Event) (s : State) :
    endSuccess (retrace old s) = retrace old (endSuccess s) := rfl

theorem endFailure_retrace (e : Err) (old : List Event) (s : State) :
    endFailure e (retrace old s) = retrace old (endFailure e s) := rfl

theorem beginSession_retrace (p : BitVec 8) (a : BitVec 7) (old : List Event) (s : State) :
    beginSession p a (retrace old s) = retrace old (beginSession p a s) := rfl

theorem endSession_retrace (old : List Event) (s : State) :
    endSession (retrace old s) = retrace old (endSession s) := rfl

theorem appends_runOpen (p : BitVec 8) (a : BitVec 7) (s : State) : Appends (runOpen p a) s := by
  have same : ∀ old k, boolAt (retrace old s) k = boolAt s k := fun _ _ => rfl
  simp only [Appends, runOpen_eq, same, opened_retrace, bound_retrace, chanRelease_retrace, beginSession_retrace,
    endSuccess_retrace, endFailure_retrace, List.append_assoc]
  cases boolAt s 0
  · exact ⟨_, fun _ => rfl⟩
  · cases boolAt s 1
    · exact ⟨_, fun _ => rfl⟩
    · exact ⟨_, fun _ => rfl⟩

theorem appends_runClose (s : State) : Appends runClose s := by
  refine ⟨frameEvents s.straps .cmd false [0x00#8] 0 ++ [.release], fun old => ?_⟩
  have begins : closing (retrace old s) = retrace old (closing s) := rfl
  rw [runClose, ← closing, begins, send_retrace, runClose, ← closing]
  simp only [chanRelease_retrace, endSession_retrace, endSuccess_retrace, List.append_assoc]
  rfl

/-- A command whose body always ends in a next state. -/
theorem next_of_appends {f : State → State} {s t : State} (appends : Appends f s)
    (ends : (.next (f s) : Host.Outcome State Fault Refusal) = .next t) :
    ∃ ev, ∀ old, (.next (f (retrace old s)) : Host.Outcome State Fault Refusal) = .next (retrace (old ++ ev) t) := by
  obtain ⟨ev, h⟩ := appends
  exact ⟨ev, fun old => by rw [h, Host.Outcome.next.inj ends]⟩

theorem runPrint_retrace {len y x : BitVec 8} {s t : State} (runs : runPrint len y x s = .next t) :
    ∃ ev, ∀ old, runPrint len y x (retrace old s) = .next (retrace (old ++ ev) t) := by
  have same : ∀ old, (retrace old s).text.readFrom 0 (printLen len (retrace old s))
      = s.text.readFrom 0 (printLen len s) := fun _ => rfl
  unfold runPrint at runs ⊢
  simp only [same]
  split at runs
  · cases runs
  · next bytes _ => exact next_of_appends (appends_sendLine (sext8 x) (sext8 y) bytes (beginOp .print s)) runs

theorem hostRun_retrace {i : Instr} (host : IsHost i) {s t : State} (runs : hostRun i s = .next t) :
    ∃ ev, ∀ old, hostRun i (retrace old s) = .next (retrace (old ++ ev) t) := by
  cases i, host using hostCases with
  | openDev p a => exact next_of_appends (appends_runOpen p a s) runs
  | init on h w => exact next_of_appends (appends_runInit on h w s) runs
  | goto y x => exact next_of_appends (appends_runGoto y x s) runs
  | print len y x => exact runPrint_retrace runs
  | clearAll line => exact next_of_appends (appends_runClearAll s) runs
  | clearRow line => exact next_of_appends (appends_runClearRow line s) runs
  | backlight on => exact next_of_appends (appends_runBacklight on s) runs
  | control bl d c k => exact next_of_appends (appends_runControl bl d c k s) runs
  | close =>
    cases session : s.session with
    | closed =>
      rw [close_ran_closed session runs]
      refine ⟨[], fun old => ?_⟩
      rw [List.append_nil]
      exact execClose_closed (s := retrace old s) session
    | opened =>
      obtain ⟨ev, h⟩ := appends_runClose s
      rw [close_ran_opened session runs]
      refine ⟨ev, fun old => ?_⟩
      rw [← h]
      exact execClose_opened (s := retrace old s) session

/-! ### Instructions and steps -/

theorem refusalOf_retrace (old : List Event) (s : State) (i : Instr) :
    refusalOf (retrace old s) i = refusalOf s i := rfl

theorem exec_retrace {i : Instr} {s t : State} (runs : exec i s = .next t) :
    ∃ ev, ∀ old, exec i (retrace old s) = .next (retrace (old ++ ev) t) := by
  by_cases host : IsHost i
  · obtain ⟨r, refused, rfl⟩ | ⟨admitted, runs⟩ := exec_host_next host runs
    · refine ⟨[], fun old => ?_⟩
      rw [exec_refused host ((refusalOf_retrace old s i).trans refused), List.append_nil]
      rfl
    · obtain ⟨ev, h⟩ := hostRun_retrace host runs
      refine ⟨ev, fun old => ?_⟩
      rw [exec_admitted host ((refusalOf_retrace old s i).trans admitted), h]
  · obtain ⟨opened, -⟩ := exec_wire_next host runs
    rw [exec_wire_opened host opened] at runs
    obtain ⟨ev, h⟩ := next_of_appends (appends_wireRun host s) runs
    refine ⟨ev, fun old => ?_⟩
    rw [exec_wire_opened (s := retrace old s) host opened, h]

theorem taken_retrace (f : Format) (w : Word) (rest : List Input) (old : List Event) (s : State) :
    taken f w rest (retrace old s) = retrace old (taken f w rest s) := by
  cases f <;> rfl

/-- From any trace a step does the same and appends the same events. -/
theorem stepped_retrace {s t : State} (h : Stepped s t) :
    ∃ ev, ∀ old, Stepped (retrace old s) (retrace (old ++ ev) t) := by
  have nothing : ∀ {u : State}, (∀ old, Stepped (retrace old s) (retrace old u)) →
      ∃ ev, ∀ old, Stepped (retrace old s) (retrace (old ++ ev) u) := fun silent =>
    ⟨[], fun old => by rw [List.append_nil]; exact silent old⟩
  cases h with
  | idle inbox => exact nothing fun old => .idle inbox
  | reset inbox => exact nothing fun old => .reset (s := retrace old s) inbox
  | text inbox inside => exact nothing fun old => .text (s := retrace old s) inbox inside
  | illegal inbox bad => exact nothing fun old => .illegal (s := retrace old s) inbox bad
  | runs inbox decodes ends =>
    obtain ⟨ev, h⟩ := exec_retrace ends
    exact ⟨ev, fun old => .runs inbox decodes (by rw [taken_retrace, h])⟩

/-- Settles O50: the step from its own trace is one of the steps from any trace, so the events are those it appends. -/
theorem traceIsAppendedToAndNeverRead : Obligations.TraceIsAppendedToAndNeverRead := by
  intro s t old runs
  obtain ⟨ev, h⟩ := stepped_retrace ((step_next_iff s t).1 runs)
  have own : step s = .next (retrace (s.trace ++ ev) t) := (step_next_iff _ _).2 (h s.trace)
  have same : t = retrace (s.trace ++ ev) t := Host.Outcome.next.inj (runs.symm.trans own)
  exact ⟨ev, congrArg State.trace same, (step_next_iff _ _).2 (h old)⟩

end Sys2Proof.Proofs.TwoRuns
